-- ==== Sys2Proof/Word.lean ====
section
/-! DEFINITION. The value types of L2FE (00_scope.md R6, R10, R11): every value is unsigned, bit 0 is the
least significant bit, a frame is a finite sequence of bytes with byte 0 first on the wire. -/

namespace Sys2Proof

/-- An 8-bit byte (R11). -/
abbrev Byte := BitVec 8

/-- A frame: its bytes in wire order (R11). -/
abbrev Frame := List Byte

/-- A hardware address, first wire octet in bits 47:40 (R6, R12, R51). -/
abbrev Addr := BitVec 48

/-- A 16-bit field: an EtherType, a TCI, a length register (R6). -/
abbrev Half := BitVec 16

/-- A command word (R81). -/
abbrev Word := BitVec 32

end Sys2Proof
end

