-- ==== Sys2Proof/Syntax.lean ====
section
/-! DEFINITION. The commands of L2FE: one constructor per row of spec/opcode_table.json (30_encoding.md R82). A
command word carries no operand: every operand stands in a register or a buffer (R81). -/

namespace Sys2Proof

/-- The eleven commands of R82, in the table's order. -/
inductive Instr where
  | encode
  | encodeV
  | decode
  | filter
  | swap
  | qualifyAe
  | qualifyAep
  | qualifyA
  | setfilter
  | start
  | stop
  deriving DecidableEq, Repr

end Sys2Proof
end

