-- ==== Sys2Proof/WellFormed.lean ====
section
/-! DEFINITION. Well-formed command words (30_encoding.md R81, R83). A constructor of `Instr` has no operand that
could be ill-formed, so what is checked is the word's fields. -/

namespace Sys2Proof

/-- The three fields of a command word (R81): `OPC` = bits 7:0, `MOD` = bits 9:8, `RSV` = bits 31:10. -/
structure CmdFields where
  opc  : BitVec 8
  mode : BitVec 2
  rsv  : BitVec 22
  deriving DecidableEq, Repr

/-- How many values of `MOD`, counted from 0, are defined for an operation code (R82, R83): none for a code that
is not in the table. -/
def modesOfOpcode (opc : BitVec 8) : Nat :=
  match opc.toNat with
  | 0x01 => 2
  | 0x02 => 1
  | 0x03 => 1
  | 0x04 => 1
  | 0x05 => 3
  | 0x10 => 1
  | 0x11 => 1
  | 0x12 => 1
  | _ => 0

/-- `RSV` must be zero (R81, R83). -/
def rsvClear (f : CmdFields) : Bool := f.rsv == 0#22

/-- `OPC` is a code of R82 (R83). -/
def opcodeDefined (f : CmdFields) : Bool := modesOfOpcode f.opc != 0

/-- `MOD` is defined for `OPC` (R83). -/
def modeDefined (f : CmdFields) : Bool := decide (f.mode.toNat < modesOfOpcode f.opc)

/-- The fields of a word that is not reserved (R83). -/
def CmdFields.wellFormed (f : CmdFields) : Bool := rsvClear f && opcodeDefined f && modeDefined f

/-- Every instruction is well formed: no constructor has an operand. -/
def Instr.wellFormed : Instr → Bool
  | .encode => true
  | .encodeV => true
  | .decode => true
  | .filter => true
  | .swap => true
  | .qualifyAe => true
  | .qualifyAep => true
  | .qualifyA => true
  | .setfilter => true
  | .start => true
  | .stop => true

end Sys2Proof
end

