-- ==== Sys2Proof/Decode.lean ====
section
/-! DEFINITION. The command word's decoder, total on every word and rejecting by name, and after it the encoder
(30_encoding.md R80–R83). -/

namespace Sys2Proof

/-- Why a command word is no command (R83). -/
inductive BadWord where
  /-- `RSV != 0`. -/
  | reservedBits (rsv : BitVec 22)
  /-- `OPC` is not in the opcode map. -/
  | noSuchOpcode (opc : BitVec 8)
  /-- `MOD` is not defined for this `OPC`. -/
  | reservedMode (opc : BitVec 8) (mode : BitVec 2)
  deriving DecidableEq, Repr

/-- The fields of a command word (R81). -/
def fieldsOf (w : Word) : CmdFields where
  opc  := w.extractLsb' 0 8
  mode := w.extractLsb' 8 2
  rsv  := w.extractLsb' 10 22

/-- The command that an `OPC` and a `MOD` select (R82); the codes R83 reserves are rejected by name. -/
def decodeOpMode (opc : BitVec 8) (mode : BitVec 2) : Except BadWord Instr :=
  match opc.toNat with
  | 0x01 =>
    match mode.toNat with
    | 0 => .ok .encode
    | 1 => .ok .encodeV
    | _ => .error (.reservedMode opc mode)
  | 0x02 => if mode = 0#2 then .ok .decode else .error (.reservedMode opc mode)
  | 0x03 => if mode = 0#2 then .ok .filter else .error (.reservedMode opc mode)
  | 0x04 => if mode = 0#2 then .ok .swap else .error (.reservedMode opc mode)
  | 0x05 =>
    match mode.toNat with
    | 0 => .ok .qualifyAe
    | 1 => .ok .qualifyAep
    | 2 => .ok .qualifyA
    | _ => .error (.reservedMode opc mode)
  | 0x10 => if mode = 0#2 then .ok .setfilter else .error (.reservedMode opc mode)
  | 0x11 => if mode = 0#2 then .ok .start else .error (.reservedMode opc mode)
  | 0x12 => if mode = 0#2 then .ok .stop else .error (.reservedMode opc mode)
  | _ => .error (.noSuchOpcode opc)

/-- Decode a command word (R80 step 1, R82, R83). -/
def decodeWord (w : Word) : Except BadWord Instr :=
  if (fieldsOf w).rsv = 0#22 then decodeOpMode (fieldsOf w).opc (fieldsOf w).mode
  else .error (.reservedBits (fieldsOf w).rsv)

/-- The operation code and the mode of each command (R82). -/
def opModeOf : Instr → BitVec 8 × BitVec 2
  | .encode => (0x01#8, 0#2)
  | .encodeV => (0x01#8, 1#2)
  | .decode => (0x02#8, 0#2)
  | .filter => (0x03#8, 0#2)
  | .swap => (0x04#8, 0#2)
  | .qualifyAe => (0x05#8, 0#2)
  | .qualifyAep => (0x05#8, 1#2)
  | .qualifyA => (0x05#8, 2#2)
  | .setfilter => (0x10#8, 0#2)
  | .start => (0x11#8, 0#2)
  | .stop => (0x12#8, 0#2)

/-- The word of a command: `RSV` zero, then `MOD`, then `OPC` (R81). -/
def encodeWord (i : Instr) : Word := 0#22 ++ ((opModeOf i).2 ++ (opModeOf i).1)

/-- The instruction the decoder reads from the bits of one row of the opcode table. A command is always one
32-bit word (R81), so a number with a higher bit set is no command. -/
def decodeTableWord (nbits w : Nat) : Option Instr :=
  if w % 2 ^ nbits < 2 ^ 32 then
    match decodeWord (BitVec.ofNat 32 (w % 2 ^ nbits)) with
    | .ok i => some i
    | .error _ => none
  else none

end Sys2Proof
end

