-- ==== Sys2Proof/Config.lean ====
section
/-! DEFINITION. What an implementation fixes (00_scope.md R6, R7, R8): the one open parameter `BUF_CAP` and the
constants the source settles. -/

namespace Sys2Proof.Config

/-- How far `BUF_CAP` lies above its least value 18. R7 leaves `BUF_CAP` open; this constant has no body, so no
proof can see its value (log entry 3). -/
opaque bufCapSlack : Fin 65518

/-- `BUF_CAP`, `18 <= BUF_CAP <= 65535` (R7): the capacity of each buffer and of the largest frame. -/
def bufCap : Nat := 18 + bufCapSlack.val

/-- `TPID`: "reserved to mean 'VLAN tag follows'" (R6). -/
abbrev tpid : Half := 0x8100#16

/-- `DEFAULT_ETYPE`, the reset value of `FILTER_ETYPE` (R6, R8). -/
def defaultEtype : Half := 0x88B5#16

/-- `HDR_UNTAGGED`: the payload offset of an untagged frame and the least decodable length (R6). -/
abbrev hdrUntagged : Nat := 14

/-- `HDR_TAGGED`: the payload offset of a tagged frame and the least length parsed as tagged (R6). -/
abbrev hdrTagged : Nat := 18

/-- The greatest legal VLAN id (`VID_BITS` = 12, R6). -/
abbrev maxVlanId : Nat := 4095

end Sys2Proof.Config
end

