-- ==== Sys2Proof/Machine/State.lean ====
section
/-! DEFINITION. The state of L2FE as plain data (10_state.md), the reasons a step can stop, and the state after
reset (70_reset_and_hazards.md R210). -/

namespace Sys2Proof.Machine

/-- A byte buffer: (index, byte) pairs, indices strictly rising. An index that is not listed is an UNWRITTEN byte:
it holds no value (R24, R34; log entry 10). -/
abbrev Memory := List Host.Cell

/-- The host registers, in the order of their indices `0x00`–`0x11` (R21). -/
inductive RegName where
  | cmd
  | status
  | state
  | filterEtype
  | opDst
  | opSrc
  | opEtype
  | opVlan
  | opLen
  | frameLen
  | resDst
  | resSrc
  | resEtype
  | resTagged
  | resTci
  | resVid
  | resPoff
  | resPlen
  deriving DecidableEq, Repr

/-- HOST's access to a register (R21). -/
inductive Access where
  | writeOnly
  | readOnly
  | readWrite
  deriving DecidableEq, Repr

/-- The two buffers (R20, R34). -/
inductive Buf where
  | frame
  | op
  deriving DecidableEq, Repr

/-- What an unwritten read names: a register or one byte of a buffer (R24). -/
inductive CellName where
  | reg (r : RegName)
  | byte (b : Buf) (i : Nat)
  deriving DecidableEq, Repr

/-- What a value was too wide for (R25, R27). -/
inductive PortTarget where
  | reg (r : RegName)
  | buf (b : Buf)
  deriving DecidableEq, Repr

/-- `STATE` (R22). -/
inductive EngineState where
  | idle
  | listen
  | txWait
  | terminated
  deriving DecidableEq, Repr

/-- The codes `STATUS` ever holds (R23); `0x9`–`0xF` are never written. -/
inductive StatusCode where
  | noneYet
  | ok
  | reject
  | invalidVlanId
  | pass
  | skip
  | matched
  | mismatched
  | nonqual
  deriving DecidableEq, Repr

/-- The events of the history `H` (R29). -/
inductive HistEvent where
  | rx (f : Frame)
  | tx (f : Frame)
  | txOk (f : Frame)
  | txFail (f : Frame)
  | stopped
  | reset
  deriving DecidableEq, Repr

/-- A fault as `FAULTS` records it (R39, R193): the one fault of the spec. -/
inductive FaultMark where
  | unwrittenRead (name : CellName)
  deriving DecidableEq, Repr

/-- A refusal by name (R193). -/
inductive RefuseMark where
  | noSuchRegister (r : Nat)
  | writeToReadOnly (r : RegName)
  | readOfWriteOnly (r : RegName)
  | valueTooWide (t : PortTarget) (v : Nat)
  | lengthOverCapacity (r : RegName) (v : Nat)
  | indexOverCapacity (b : Buf) (i : Nat)
  | unknownCommand (w : Word)
  | commandInState (i : Instr) (e : EngineState)
  | frameOverCapacity (n : Nat)
  deriving DecidableEq, Repr

/-- MEDIUM's answer to a transmission (R142). -/
inductive TxAnswer where
  | ok
  | fail
  deriving DecidableEq, Repr

/-- A HOST port operation (R25–R28). A value HOST offers is any natural number; the port refuses one that does
not fit. -/
inductive HostOp where
  | hwr (r v : Nat)
  | hrd (r : Nat)
  | hwb (b : Buf) (i v : Nat)
  | hrb (b : Buf) (i : Nat)
  deriving DecidableEq, Repr

/-- One event of the total order of R59, before it happens: what HOST, MEDIUM or the reset input does next. -/
inductive Input where
  /-- A HOST port operation. -/
  | host (op : HostOp)
  /-- What is left of a pseudo-instruction's expansion (R87): it stops at the first refusal. -/
  | pseudo (ops : List HostOp)
  /-- MEDIUM delivers a frame (R141). -/
  | deliver (f : Frame)
  /-- MEDIUM answers the pending transmission (R142). -/
  | answer (a : TxAnswer)
  /-- The reset input (R210). -/
  | reset
  deriving DecidableEq, Repr

/-- The state (R20). A register or byte that the spec calls unwritten holds `none`: "either written, holding a value
of its width, or unwritten, holding none" (R24; log entry 1). -/
structure State where
  /-- `STATUS` (R23). -/
  status      : StatusCode
  /-- `STATE` (R22). -/
  engine      : EngineState
  /-- `FILTER_ETYPE` (R31). -/
  filterEtype : Half
  /-- `OP_DST` (R32). -/
  opDst       : Option Addr
  /-- `OP_SRC` (R32). -/
  opSrc       : Option Addr
  /-- `OP_ETYPE` (R32). -/
  opEtype     : Option Half
  /-- `OP_VLAN` (R32). -/
  opVlan      : Option Half
  /-- `OP_LEN` (R32). -/
  opLen       : Option Half
  /-- `FRAME_LEN` (R32). -/
  frameLen    : Option Half
  /-- `RES_DST` (R33). -/
  resDst      : Option Addr
  /-- `RES_SRC` (R33). -/
  resSrc      : Option Addr
  /-- `RES_ETYPE` (R33). -/
  resEtype    : Option Half
  /-- `RES_TAGGED` (R33). -/
  resTagged   : Option (BitVec 1)
  /-- `RES_TCI` (R33). -/
  resTci      : Option Half
  /-- `RES_VID` (R33). -/
  resVid      : Option (BitVec 12)
  /-- `RES_POFF` (R33). -/
  resPoff     : Option Half
  /-- `RES_PLEN` (R33). -/
  resPlen     : Option Half
  /-- `FRAME_BUF` (R34). -/
  frameBuf    : Memory
  /-- `OP_BUF` (R34). -/
  opBuf       : Memory
  /-- `TX_PEND` (R30). -/
  txPend      : Option Frame
  /-- The event history `H`, oldest event first (R29). -/
  hist        : List HistEvent
  /-- `FAULTS`, oldest first (R39). -/
  faults      : List FaultMark
  /-- `REFUSED` (R39). -/
  refused     : Bool
  /-- THE MODEL'S OWN: the refusals by name, oldest first (log entry 2). -/
  refusals    : List RefuseMark
  /-- THE MODEL'S OWN: the numbers HOST has read through the port, oldest first (log entry 8). -/
  hostReads   : List Nat
  /-- THE MODEL'S OWN: the events still to come, in their total order (log entry 4). -/
  inputs      : List Input
  deriving DecidableEq, Repr

/-- Why the machine stops. -/
inductive Fault where
  /-- Raised by the step that takes a MEDIUM delivery in `LISTEN` of a frame of `n` bytes, `n` above `BUF_CAP`. SAFE:
  the spec gives such a delivery no move (R149), and its treatment for safety is that the machine is stuck
  (93_implementation_defined.md P1; log entry 7). -/
  | deliveryOverCapacity (n : Nat)
  deriving DecidableEq, Repr

/-- Why an instruction has no meaning here. -/
inductive Refusal where
  /-- Raised by an arm of `exec` whose instruction has no meaning yet. SAFE. No arm raises it. -/
  | notModelled (mnemonic : String)
  deriving DecidableEq, Repr

/-- The machine after the reset that begins a run (R210): `H = [RESET]`, `FAULTS` empty, `REFUSED` false, and no event
placed (log entry 4). -/
def State.reset : State where
  status      := .noneYet
  engine      := .idle
  filterEtype := Config.defaultEtype
  opDst       := none
  opSrc       := none
  opEtype     := none
  opVlan      := none
  opLen       := none
  frameLen    := none
  resDst      := none
  resSrc      := none
  resEtype    := none
  resTagged   := none
  resTci      := none
  resVid      := none
  resPoff     := none
  resPlen     := none
  frameBuf    := []
  opBuf       := []
  txPend      := none
  hist        := [.reset]
  faults      := []
  refused     := false
  refusals    := []
  hostReads   := []
  inputs      := []

end Sys2Proof.Machine
end

