-- ==== Sys2Proof/Machine/Wire.lean ====
section
/-! DEFINITION. The wire format and the pure functions over frames: byte order (00_scope.md R12), the three forms
of a frame (30_encoding.md R70–R75), the codec (40_codec.md R100, R101), the responder's filter and reply
(41_responder.md R130, R131) and the qualification (42_probe_filter.md R170). -/

namespace Sys2Proof.Machine

/-- Byte `i` of a frame. Past the frame's end it answers 0, which no rule reads (R56, R101; log entry 15). -/
def byteAt (b : Frame) (i : Nat) : Byte := b.getD i 0#8

/-- `be16(b, i)` (R12). -/
def be16 (b : Frame) (i : Nat) : Half := byteAt b i ++ byteAt b (i + 1)

/-- `be48(b, i)`: byte `i` in bits 47:40 (R12). -/
def be48 (b : Frame) (i : Nat) : Addr :=
  byteAt b i ++ (byteAt b (i + 1) ++ (byteAt b (i + 2) ++ (byteAt b (i + 3) ++ (byteAt b (i + 4) ++ byteAt b (i + 5)))))

/-- `bytes16(v)` (R12). -/
def bytes16 (v : Half) : Frame := [v.extractLsb' 8 8, v.extractLsb' 0 8]

/-- `bytes48(v)` (R12). -/
def bytes48 (v : Addr) : Frame :=
  [v.extractLsb' 40 8, v.extractLsb' 32 8, v.extractLsb' 24 8, v.extractLsb' 16 8, v.extractLsb' 8 8, v.extractLsb' 0 8]

/-- The VLAN id of a TCI, `TCI[11:0]` (R72). -/
def vidOf (tci : Half) : BitVec 12 := tci.extractLsb' 0 12

/-- The three forms of a byte sequence (R73). -/
inductive FrameForm where
  | reject
  | untagged
  | tagged
  deriving DecidableEq, Repr

/-- Tag detection (R73). -/
def frameForm (b : Frame) : FrameForm :=
  if b.length < Config.hdrUntagged then .reject
  else if be16 b 12 = Config.tpid ∧ Config.hdrTagged ≤ b.length then .tagged
  else .untagged

/-- The effective EtherType; a REJECT frame has none (R74). -/
def effectiveEtype (b : Frame) : Option Half :=
  match frameForm b with
  | .reject => none
  | .tagged => some (be16 b 16)
  | .untagged => some (be16 b 12)

/-- The payload of a frame that is not REJECT, possibly empty (R75). -/
def framePayload (b : Frame) : Option Frame :=
  match frameForm b with
  | .reject => none
  | .tagged => some (b.drop Config.hdrTagged)
  | .untagged => some (b.drop Config.hdrUntagged)

/-- What `encodeFn` answers (R100): the frame, or the source's `InvalidVlanId`. -/
inductive EncodeResult where
  | frame (f : Frame)
  | invalidVlanId
  deriving DecidableEq, Repr

/-- `encodeFn` (R100). The TCI is `zext_16(v[11:0])` (R77). -/
def encodeFn (dst src : Addr) (et : Half) (p : Frame) (vlan : Option Half) : EncodeResult :=
  match vlan with
  | none => .frame (bytes48 dst ++ bytes48 src ++ bytes16 et ++ p)
  | some v =>
    if Config.maxVlanId < v.toNat then .invalidVlanId
    else .frame (bytes48 dst ++ bytes48 src ++ bytes16 Config.tpid ++ bytes16 ((vidOf v).setWidth 16) ++ bytes16 et ++ p)

/-- The fields of a parsed frame (R101). -/
structure Parsed where
  dst    : Addr
  src    : Addr
  tagged : Bool
  tci    : Option Half
  etype  : Half
  poff   : Nat
  plen   : Nat
  deriving DecidableEq, Repr

/-- What `decodeFn` answers (R101). -/
inductive DecodeResult where
  | reject
  | parsed (p : Parsed)
  deriving DecidableEq, Repr

/-- The fields of a frame of 14 bytes or more (R101). -/
def parseFrame (b : Frame) : Parsed :=
  if be16 b 12 = Config.tpid ∧ Config.hdrTagged ≤ b.length then
    { dst := be48 b 0, src := be48 b 6, tagged := true, tci := some (be16 b 14), etype := be16 b 16,
      poff := Config.hdrTagged, plen := b.length - Config.hdrTagged }
  else
    { dst := be48 b 0, src := be48 b 6, tagged := false, tci := none, etype := be16 b 12,
      poff := Config.hdrUntagged, plen := b.length - Config.hdrUntagged }

/-- `decodeFn` (R101). -/
def decodeFn (b : Frame) : DecodeResult :=
  if b.length < Config.hdrUntagged then .reject else .parsed (parseFrame b)

/-- `Bytes(b, off, n)` of a frame: `b[off..off+n-1]` (R11, R14). -/
def frameSlice (b : Frame) (off n : Nat) : Frame := (b.drop off).take n

/-- What `filterFn` answers (R130). -/
inductive FilterResult where
  | reject
  | pass
  | skip
  deriving DecidableEq, Repr

/-- `filterFn` (R130): the effective EtherType alone decides. -/
def filterFn (b : Frame) (f : Half) : FilterResult :=
  match decodeFn b with
  | .reject => .reject
  | .parsed p => if p.etype = f then .pass else .skip

/-- `replyFn` (R131): the addresses swapped, every byte from offset 12 on copied. -/
def replyFn (b : Frame) : Frame := frameSlice b 6 6 ++ frameSlice b 0 6 ++ b.drop 12

/-- The modes of `qualifyFn` (R170). -/
inductive QualifyMode where
  | ae
  | aep
  | a
  deriving DecidableEq, Repr

/-- What `qualifyFn` answers (R170). -/
inductive Verdict where
  | matched
  | mismatched
  | nonQual
  deriving DecidableEq, Repr

/-- Do the two addresses of a parsed frame equal the expected ones (R170)? -/
def addressesMatch (p : Parsed) (es ed : Addr) : Bool := decide (p.src = es) && decide (p.dst = ed)

/-- `qualifyFn` (R170); payload equality is equality of byte sequences, lengths included (R171). -/
def qualifyFn (b : Frame) (es ed : Addr) (ee : Half) (ep : Frame) (mode : QualifyMode) : Verdict :=
  match decodeFn b with
  | .reject => .nonQual
  | .parsed p =>
    match mode with
    | .a => if addressesMatch p es ed then .matched else .nonQual
    | .ae => if addressesMatch p es ed && decide (p.etype = ee) then .matched else .nonQual
    | .aep =>
      if addressesMatch p es ed && decide (p.etype = ee) then
        if frameSlice b p.poff p.plen = ep then .matched else .mismatched
      else .nonQual

end Sys2Proof.Machine
end

