-- ==== Sys2Proof/Machine/Flags.lean ====
section
/-! DEFINITION. The flag computations. `STATUS` is L2FE's only flag register (10_state.md R37): the code each pure
function's answer stands for (R23). -/

namespace Sys2Proof.Machine

/-- The code FILTER writes (R132). -/
def statusOfFilter : FilterResult → StatusCode
  | .reject => .reject
  | .pass => .pass
  | .skip => .skip

/-- The code QUALIFY.AE, QUALIFY.AEP and QUALIFY.A write (R172, R174, R176). -/
def statusOfVerdict : Verdict → StatusCode
  | .matched => .matched
  | .mismatched => .mismatched
  | .nonQual => .nonqual

end Sys2Proof.Machine
end

