-- ==== Sys2Proof/Machine/Ops.lean ====
section
/-! DEFINITION. The named operations over buffers, marks, history and reset, and the one gate every command passes
through. L2FE takes no exceptions and returns from none (60_exceptions.md R190, R197): what stands in the place of
exception entry is the recording of a fault or a refusal, shared by all (10_state.md R39). -/

namespace Sys2Proof.Machine

/-- Byte `a` of a buffer; `none` when it is unwritten (R24). -/
def Memory.read : Memory → Nat → Option Byte
  | [], _ => none
  | (k, v) :: rest, a => if k = a then some v else Memory.read rest a

/-- Write byte `v` at index `a`, keeping the indices strictly rising. -/
def Memory.write : Memory → Nat → Byte → Memory
  | [], a, v => [(a, v)]
  | (k, w) :: rest, a, v =>
    if a < k then (a, v) :: (k, w) :: rest
    else if a = k then (a, v) :: rest
    else (k, w) :: Memory.write rest a v

/-- `B[off..off+len-1] <- bytes` (R14). -/
def Memory.writeBytes (m : Memory) (off : Nat) : Frame → Memory
  | [] => m
  | v :: vs => Memory.writeBytes (Memory.write m off v) (off + 1) vs

/-- `Bytes(B, off, n)` (R14), or the least index among them that is unwritten. -/
def Memory.readBytes (m : Memory) (off : Nat) : Nat → Except Nat Frame
  | 0 => .ok []
  | n + 1 =>
    match Memory.read m off with
    | none => .error off
    | some v =>
      match Memory.readBytes m (off + 1) n with
      | .error i => .error i
      | .ok vs => .ok (v :: vs)

/-- The canonical form of a buffer: indices strictly rising. Every list in this form lists no index that reads as an
unlisted one does, since an unlisted index holds no value. -/
abbrev Memory.wf (m : Memory) : Prop := (m.map Prod.fst).Pairwise (· < ·)

/-- Every listed index is below the capacity `cap` (R34). -/
abbrev Memory.within (cap : Nat) (m : Memory) : Prop := ∀ c ∈ m, c.1 < cap

/-- Record `fault UnwrittenRead(name)`: `FAULTS` gains it, nothing else changes (R39). -/
def recordFault (name : CellName) (s : State) : State := { s with faults := s.faults ++ [.unwrittenRead name] }

/-- Record a refusal: `REFUSED` becomes true, no other state of L2FE changes (R39); the model keeps its name. -/
def recordRefusal (m : RefuseMark) (s : State) : State :=
  { s with refused := true, refusals := s.refusals ++ [m] }

/-- `emit e` (R15, R29). -/
def emit (e : HistEvent) (s : State) : State := { s with hist := s.hist ++ [e] }

/-- `status <- c` (R15, R23). -/
def setStatus (c : StatusCode) (s : State) : State := { s with status := c }

/-- Hand a number to HOST (R26, R28): no state of L2FE changes. -/
def giveHost (v : Nat) (s : State) : State := { s with hostReads := s.hostReads ++ [v] }

/-- How a command's rule can end without completing (R15): a read of something unwritten, or a refusal. -/
inductive Abort where
  | unwritten (name : CellName)
  | refuse (m : RefuseMark)
  deriving DecidableEq, Repr

/-- The state after a command's rule has run on `s`: its result, or `s` with the fault or refusal recorded (R39). -/
def settle (s : State) : Except Abort State → State
  | .ok t => t
  | .error (.unwritten name) => recordFault name s
  | .error (.refuse m) => recordRefusal m s

/-- The commands allowed in each engine state (R84). -/
def allowed (i : Instr) (e : EngineState) : Bool :=
  match e with
  | .idle => true
  | .listen => decide (i = .stop)
  | .txWait => decide (i = .stop)
  | .terminated => false

/-- Run command `i` whose own rule answers `r` on `s`: the engine state is checked first (R80 step 2, R195). -/
def command (i : Instr) (s : State) (r : Except Abort State) : Host.Outcome State Fault Refusal :=
  .next (if allowed i s.engine then settle s r else recordRefusal (.commandInState i s.engine) s)

/-- Reset (R210): every register, buffer, `STATE` and `TX_PEND` as at reset; `RESET` appended to `H`; `H`, `FAULTS` and
`REFUSED` never cleared. What HOST has read and what is still to come are not L2FE's (log entry 18). -/
def resetEngine (s : State) : State :=
  { State.reset with
    hist := s.hist ++ [.reset]
    faults := s.faults
    refused := s.refused
    refusals := s.refusals
    hostReads := s.hostReads
    inputs := s.inputs }

end Sys2Proof.Machine
end

