-- ==== Sys2Proof/Machine/Operands.lean ====
section
/-! DEFINITION. Every way an operand is reached: the register map at the host port (10_state.md R21), the registers a
command reads (R24, R32), the frame and the payload operand (R34), and the writing of a frame into `FRAME_BUF`. -/

namespace Sys2Proof.Machine

/-- The index of a register at the host port (R21). -/
def regIndex : RegName → Nat
  | .cmd => 0x00
  | .status => 0x01
  | .state => 0x02
  | .filterEtype => 0x03
  | .opDst => 0x04
  | .opSrc => 0x05
  | .opEtype => 0x06
  | .opVlan => 0x07
  | .opLen => 0x08
  | .frameLen => 0x09
  | .resDst => 0x0A
  | .resSrc => 0x0B
  | .resEtype => 0x0C
  | .resTagged => 0x0D
  | .resTci => 0x0E
  | .resVid => 0x0F
  | .resPoff => 0x10
  | .resPlen => 0x11

/-- The register at an index; none from `0x12` on (R21, R57). -/
def regAt (r : Nat) : Option RegName :=
  match r with
  | 0x00 => some .cmd
  | 0x01 => some .status
  | 0x02 => some .state
  | 0x03 => some .filterEtype
  | 0x04 => some .opDst
  | 0x05 => some .opSrc
  | 0x06 => some .opEtype
  | 0x07 => some .opVlan
  | 0x08 => some .opLen
  | 0x09 => some .frameLen
  | 0x0A => some .resDst
  | 0x0B => some .resSrc
  | 0x0C => some .resEtype
  | 0x0D => some .resTagged
  | 0x0E => some .resTci
  | 0x0F => some .resVid
  | 0x10 => some .resPoff
  | 0x11 => some .resPlen
  | _ => none

/-- The width of a register in bits (R21). -/
def regWidth : RegName → Nat
  | .cmd => 32
  | .status => 4
  | .state => 2
  | .filterEtype => 16
  | .opDst => 48
  | .opSrc => 48
  | .opEtype => 16
  | .opVlan => 16
  | .opLen => 16
  | .frameLen => 16
  | .resDst => 48
  | .resSrc => 48
  | .resEtype => 16
  | .resTagged => 1
  | .resTci => 16
  | .resVid => 12
  | .resPoff => 16
  | .resPlen => 16

/-- HOST's access to a register (R21). -/
def regAccess : RegName → Access
  | .cmd => .writeOnly
  | .status => .readOnly
  | .state => .readOnly
  | .filterEtype => .readOnly
  | .opDst => .readWrite
  | .opSrc => .readWrite
  | .opEtype => .readWrite
  | .opVlan => .readWrite
  | .opLen => .readWrite
  | .frameLen => .readWrite
  | .resDst => .readOnly
  | .resSrc => .readOnly
  | .resEtype => .readOnly
  | .resTagged => .readOnly
  | .resTci => .readOnly
  | .resVid => .readOnly
  | .resPoff => .readOnly
  | .resPlen => .readOnly

/-- The registers a HOST write to which is bounded by `BUF_CAP` (R25). -/
def isLengthReg : RegName → Bool
  | .opLen => true
  | .frameLen => true
  | _ => false

/-- The 4-bit code of a `STATUS` (R23). -/
def statusBits : StatusCode → BitVec 4
  | .noneYet => 0x0#4
  | .ok => 0x1#4
  | .reject => 0x2#4
  | .invalidVlanId => 0x3#4
  | .pass => 0x4#4
  | .skip => 0x5#4
  | .matched => 0x6#4
  | .mismatched => 0x7#4
  | .nonqual => 0x8#4

/-- The 2-bit encoding of `STATE` (R22). -/
def engineBits : EngineState → BitVec 2
  | .idle => 0#2
  | .listen => 1#2
  | .txWait => 2#2
  | .terminated => 3#2

/-- The number a register holds; `none` when it is unwritten (R24), and for `CMD`, which keeps nothing (R65). -/
def regRead (s : State) : RegName → Option Nat
  | .cmd => none
  | .status => some (statusBits s.status).toNat
  | .state => some (engineBits s.engine).toNat
  | .filterEtype => some s.filterEtype.toNat
  | .opDst => s.opDst.map BitVec.toNat
  | .opSrc => s.opSrc.map BitVec.toNat
  | .opEtype => s.opEtype.map BitVec.toNat
  | .opVlan => s.opVlan.map BitVec.toNat
  | .opLen => s.opLen.map BitVec.toNat
  | .frameLen => s.frameLen.map BitVec.toNat
  | .resDst => s.resDst.map BitVec.toNat
  | .resSrc => s.resSrc.map BitVec.toNat
  | .resEtype => s.resEtype.map BitVec.toNat
  | .resTagged => s.resTagged.map BitVec.toNat
  | .resTci => s.resTci.map BitVec.toNat
  | .resVid => s.resVid.map BitVec.toNat
  | .resPoff => s.resPoff.map BitVec.toNat
  | .resPlen => s.resPlen.map BitVec.toNat

/-- `reg[r] <- v` by HOST: the register becomes written (R25). Only the read-write registers have storage HOST may
write; the port lets no write of another one come here but that of `CMD`, which is not stored. -/
def regWrite (r : RegName) (v : Nat) (s : State) : State :=
  match r with
  | .opDst => { s with opDst := some (BitVec.ofNat 48 v) }
  | .opSrc => { s with opSrc := some (BitVec.ofNat 48 v) }
  | .opEtype => { s with opEtype := some (BitVec.ofNat 16 v) }
  | .opVlan => { s with opVlan := some (BitVec.ofNat 16 v) }
  | .opLen => { s with opLen := some (BitVec.ofNat 16 v) }
  | .frameLen => { s with frameLen := some (BitVec.ofNat 16 v) }
  | .cmd => s
  | .status => s
  | .state => s
  | .filterEtype => s
  | .resDst => s
  | .resSrc => s
  | .resEtype => s
  | .resTagged => s
  | .resTci => s
  | .resVid => s
  | .resPoff => s
  | .resPlen => s

/-- A buffer (R34). -/
def bufOf (b : Buf) (s : State) : Memory :=
  match b with
  | .frame => s.frameBuf
  | .op => s.opBuf

/-- The state with a buffer replaced (R34). -/
def setBuf (b : Buf) (m : Memory) (s : State) : State :=
  match b with
  | .frame => { s with frameBuf := m }
  | .op => { s with opBuf := m }

/-- A command's read of a register: `fault UnwrittenRead(name)` when it is unwritten (R24). -/
def need {α : Type} (r : RegName) : Option α → Except Abort α
  | some v => .ok v
  | none => .error (.unwritten (.reg r))

/-- A command's read of the first `n` bytes of a buffer; the least unwritten index faults (R24). -/
def needBytes (b : Buf) (s : State) (n : Nat) : Except Abort Frame :=
  match Memory.readBytes (bufOf b s) 0 n with
  | .ok vs => .ok vs
  | .error i => .error (.unwritten (.byte b i))

/-- "The frame": `FRAME_BUF[0..FRAME_LEN-1]` (R34). -/
def frameOperand (s : State) : Except Abort Frame := do
  let n ← need .frameLen s.frameLen
  needBytes .frame s n.toNat

/-- "The payload operand": `OP_BUF[0..OP_LEN-1]` (R34). -/
def payloadOperand (s : State) : Except Abort Frame := do
  let n ← need .opLen s.opLen
  needBytes .op s n.toNat

/-- `FRAME[0..len(f)-1] <- f`: bytes at index `len(f)` and above are kept (R34, R102). -/
def placeFrame (f : Frame) (s : State) : State := { s with frameBuf := Memory.writeBytes s.frameBuf 0 f }

/-- `reg[FRAME_LEN] <- n` by a command (R102, R103). -/
def setFrameLen (n : Nat) (s : State) : State := { s with frameLen := some (BitVec.ofNat 16 n) }

end Sys2Proof.Machine
end

