-- ==== Sys2Proof/Machine/Codec.lean ====
section
/-! DEFINITION. The Frame Codec commands ENCODE, ENCODE.V and DECODE (40_codec.md R102–R104). -/

namespace Sys2Proof.Machine

/-- Write an encoded frame, its length and `OK` (R102, R103). -/
def finishEncode (f : Frame) (s : State) : State := setStatus .ok (setFrameLen f.length (placeFrame f s))

/-- ENCODE's own rule at capacity `cap` (R102): operands first, then the capacity. -/
def encodeRule (cap : Nat) (s : State) : Except Abort State := do
  let dst ← need .opDst s.opDst
  let src ← need .opSrc s.opSrc
  let et ← need .opEtype s.opEtype
  let p ← payloadOperand s
  if cap < 14 + p.length then .error (.refuse (.frameOverCapacity (14 + p.length)))
  else
    match encodeFn dst src et p none with
    | .frame f => .ok (finishEncode f s)
    | .invalidVlanId => .ok (setStatus .invalidVlanId s)

/-- ENCODE.V's own rule at capacity `cap` (R103): operands first, then the capacity, then the VLAN id. -/
def encodeVRule (cap : Nat) (s : State) : Except Abort State := do
  let dst ← need .opDst s.opDst
  let src ← need .opSrc s.opSrc
  let et ← need .opEtype s.opEtype
  let v ← need .opVlan s.opVlan
  let p ← payloadOperand s
  if cap < 18 + p.length then .error (.refuse (.frameOverCapacity (18 + p.length)))
  else
    match encodeFn dst src et p (some v) with
    | .frame f => .ok (finishEncode f s)
    | .invalidVlanId => .ok (setStatus .invalidVlanId s)

/-- Write what `decodeFn` answers into the result registers (R104). -/
def writeResults (r : DecodeResult) (s : State) : State :=
  match r with
  | .reject =>
    { s with
      resDst := none, resSrc := none, resEtype := none, resTagged := none, resTci := none, resVid := none,
      resPoff := none, resPlen := none, status := .reject }
  | .parsed p =>
    { s with
      resDst := some p.dst, resSrc := some p.src, resEtype := some p.etype,
      resTagged := some (BitVec.ofBool p.tagged), resTci := p.tci, resVid := p.tci.map vidOf,
      resPoff := some (BitVec.ofNat 16 p.poff), resPlen := some (BitVec.ofNat 16 p.plen), status := .ok }

/-- DECODE's own rule (R104): every byte of the frame is read before decoding. -/
def decodeRule (s : State) : Except Abort State := do
  let b ← frameOperand s
  .ok (writeResults (decodeFn b) s)

/-- ENCODE (R102). -/
def execEncode (s : State) : Host.Outcome State Fault Refusal := command .encode s (encodeRule Config.bufCap s)

/-- ENCODE.V (R103). -/
def execEncodeV (s : State) : Host.Outcome State Fault Refusal := command .encodeV s (encodeVRule Config.bufCap s)

/-- DECODE (R104). -/
def execDecode (s : State) : Host.Outcome State Fault Refusal := command .decode s (decodeRule s)

end Sys2Proof.Machine
end

