-- ==== Sys2Proof/Machine/Probe.lean ====
section
/-! DEFINITION. The reply-qualification filter (42_probe_filter.md): QUALIFY.AE, QUALIFY.AEP and QUALIFY.A
(R172, R174, R176). Each writes `STATUS` alone. -/

namespace Sys2Proof.Machine

/-- QUALIFY.AE's own rule (R172): `OP_BUF` is not read. -/
def qualifyAeRule (s : State) : Except Abort State := do
  let b ← frameOperand s
  let es ← need .opSrc s.opSrc
  let ed ← need .opDst s.opDst
  let ee ← need .opEtype s.opEtype
  .ok (setStatus (statusOfVerdict (qualifyFn b es ed ee [] .ae)) s)

/-- QUALIFY.AEP's own rule (R174): `OP_BUF` is read even when the frame does not qualify. -/
def qualifyAepRule (s : State) : Except Abort State := do
  let b ← frameOperand s
  let es ← need .opSrc s.opSrc
  let ed ← need .opDst s.opDst
  let ee ← need .opEtype s.opEtype
  let ep ← payloadOperand s
  .ok (setStatus (statusOfVerdict (qualifyFn b es ed ee ep .aep)) s)

/-- QUALIFY.A's own rule (R176): `OP_ETYPE` and `OP_BUF` are not read; mode A uses neither of their values. -/
def qualifyARule (s : State) : Except Abort State := do
  let b ← frameOperand s
  let es ← need .opSrc s.opSrc
  let ed ← need .opDst s.opDst
  .ok (setStatus (statusOfVerdict (qualifyFn b es ed 0#16 [] .a)) s)

/-- QUALIFY.AE (R172). -/
def execQualifyAe (s : State) : Host.Outcome State Fault Refusal := command .qualifyAe s (qualifyAeRule s)

/-- QUALIFY.AEP (R174). -/
def execQualifyAep (s : State) : Host.Outcome State Fault Refusal := command .qualifyAep s (qualifyAepRule s)

/-- QUALIFY.A (R176). -/
def execQualifyA (s : State) : Host.Outcome State Fault Refusal := command .qualifyA s (qualifyARule s)

end Sys2Proof.Machine
end

