-- ==== Sys2Proof/Machine/Responder.lean ====
section
/-! DEFINITION. The Echo Responder (41_responder.md): the commands FILTER, SWAP, SETFILTER, START and STOP
(R132–R137) and the two steps of its loop (R141, R142). -/

namespace Sys2Proof.Machine

/-- FILTER's own rule (R132): nothing but `STATUS` is written. -/
def filterRule (s : State) : Except Abort State := do
  let b ← frameOperand s
  .ok (setStatus (statusOfFilter (filterFn b s.filterEtype)) s)

/-- SWAP's own rule (R133): in place; a frame shorter than 14 bytes is left alone. -/
def swapRule (s : State) : Except Abort State := do
  let b ← frameOperand s
  if b.length < Config.hdrUntagged then .ok (setStatus .reject s)
  else .ok (setStatus .ok (placeFrame (replyFn b) s))

/-- SETFILTER's own rule (R134). -/
def setfilterRule (s : State) : Except Abort State := do
  let et ← need .opEtype s.opEtype
  .ok (setStatus .ok { s with filterEtype := et })

/-- START's own rule (R136). -/
def startRule (s : State) : State := setStatus .ok { s with engine := .listen }

/-- STOP's own rule (R137): a pending reply is abandoned (R144). -/
def stopRule (s : State) : State :=
  setStatus .ok (emit .stopped { s with txPend := none, engine := .terminated })

/-- FILTER (R132). -/
def execFilter (s : State) : Host.Outcome State Fault Refusal := command .filter s (filterRule s)

/-- SWAP (R133). -/
def execSwap (s : State) : Host.Outcome State Fault Refusal := command .swap s (swapRule s)

/-- SETFILTER (R134). -/
def execSetfilter (s : State) : Host.Outcome State Fault Refusal := command .setfilter s (setfilterRule s)

/-- START (R136). -/
def execStart (s : State) : Host.Outcome State Fault Refusal := command .start s (.ok (startRule s))

/-- STOP (R137). -/
def execStop (s : State) : Host.Outcome State Fault Refusal := command .stop s (.ok (stopRule s))

/-- The receive step `RSP_RX(f)` in `LISTEN` (R141): a skipped frame leaves its `RX` event alone. -/
def rspRx (f : Frame) (s : State) : State :=
  match filterFn f s.filterEtype with
  | .reject => emit (.rx f) s
  | .skip => emit (.rx f) s
  | .pass => { emit (.tx (replyFn f)) (emit (.rx f) s) with txPend := some (replyFn f), engine := .txWait }

/-- The event of a transmit answer (R142). -/
def answerEvent (a : TxAnswer) (r : Frame) : HistEvent :=
  match a with
  | .ok => .txOk r
  | .fail => .txFail r

/-- The transmit-result step `RSP_TXDONE(a)` for the pending reply `r` (R142). -/
def rspTxDone (a : TxAnswer) (r : Frame) (s : State) : State :=
  { emit (answerEvent a r) s with txPend := none, engine := .listen }

/-- MEDIUM delivers `f`. In `LISTEN` the receive step is taken when `f` fits `BUF_CAP`; a longer one has no move (R149).
In any other engine state the frame is not taken and stays MEDIUM's (R141; log entry 6). -/
def takeDelivery (f : Frame) (s : State) : Host.Outcome State Fault Refusal :=
  match s.engine with
  | .listen => if f.length ≤ Config.bufCap then .next (rspRx f s) else .fault (.deliveryOverCapacity f.length)
  | .idle => .next s
  | .txWait => .next s
  | .terminated => .next s

/-- MEDIUM answers a transmission. In `TX_WAIT` it is the answer for the pending reply; in any other engine state no
step consumes it (R142, R144; log entry 6). -/
def takeAnswer (a : TxAnswer) (s : State) : State :=
  match s.engine, s.txPend with
  | .txWait, some r => rspTxDone a r s
  | _, _ => s

end Sys2Proof.Machine
end

