-- ==== Sys2Proof/Machine/Dispatch.lean ====
section
/-! DEFINITION. One arm per command, each one call of its meaning (30_encoding.md R82). -/

namespace Sys2Proof.Machine

def exec (i : Instr) (s : State) : Host.Outcome State Fault Refusal :=
  match i with
  | .encode => Sys2Proof.Machine.execEncode s
  | .encodeV => Sys2Proof.Machine.execEncodeV s
  | .decode => Sys2Proof.Machine.execDecode s
  | .filter => Sys2Proof.Machine.execFilter s
  | .swap => Sys2Proof.Machine.execSwap s
  | .qualifyAe => Sys2Proof.Machine.execQualifyAe s
  | .qualifyAep => Sys2Proof.Machine.execQualifyAep s
  | .qualifyA => Sys2Proof.Machine.execQualifyA s
  | .setfilter => Sys2Proof.Machine.execSetfilter s
  | .start => Sys2Proof.Machine.execStart s
  | .stop => Sys2Proof.Machine.execStop s

end Sys2Proof.Machine
end

