-- ==== Sys2Proof/Machine/Port.lean ====
section
/-! DEFINITION. The host port (10_state.md R25–R28), the issue of a command (30_encoding.md R80), the running of a
pseudo-instruction's expansion (R87), and the taking of one event of the total order (20_memory.md R59). -/

namespace Sys2Proof.Machine

/-- The checks of `HWR(r, v)`, in R25's order, at capacity `cap`: the register, or the refusal. -/
def checkWrite (cap r v : Nat) : Except RefuseMark RegName :=
  match regAt r with
  | none => .error (.noSuchRegister r)
  | some n =>
    if regAccess n = .readOnly then .error (.writeToReadOnly n)
    else if 2 ^ regWidth n ≤ v then .error (.valueTooWide (.reg n) v)
    else if isLengthReg n && decide (cap < v) then .error (.lengthOverCapacity n v)
    else .ok n

/-- Issue the command whose word is `w` (R80): the encoding is checked first, then the engine state by the command's own
meaning. The word is kept nowhere (R65). -/
def issueCommand (w : Word) (s : State) : Host.Outcome State Fault Refusal :=
  match decodeWord w with
  | .error _ => .next (recordRefusal (.unknownCommand w) s)
  | .ok i => exec i s

/-- `HWR(r, v)` (R25). -/
def portWrite (r v : Nat) (s : State) : Host.Outcome State Fault Refusal :=
  match checkWrite Config.bufCap r v with
  | .error m => .next (recordRefusal m s)
  | .ok n => if n = .cmd then issueCommand (BitVec.ofNat 32 v) s else .next (regWrite n v s)

/-- `HRD(r)` (R26). -/
def portRead (r : Nat) (s : State) : State :=
  match regAt r with
  | none => recordRefusal (.noSuchRegister r) s
  | some n =>
    if n = .cmd then recordRefusal (.readOfWriteOnly n) s
    else
      match regRead s n with
      | none => recordFault (.reg n) s
      | some v => giveHost v s

/-- `HWB(B, i, v)` (R27). -/
def bufferWrite (b : Buf) (i v : Nat) (s : State) : State :=
  if Config.bufCap ≤ i then recordRefusal (.indexOverCapacity b i) s
  else if 0xFF < v then recordRefusal (.valueTooWide (.buf b) v) s
  else setBuf b (Memory.write (bufOf b s) i (BitVec.ofNat 8 v)) s

/-- `HRB(B, i)` (R28). -/
def bufferRead (b : Buf) (i : Nat) (s : State) : State :=
  if Config.bufCap ≤ i then recordRefusal (.indexOverCapacity b i) s
  else
    match Memory.read (bufOf b s) i with
    | none => recordFault (.byte b i) s
    | some v => giveHost v.toNat s

/-- One HOST port operation (R25–R28). -/
def hostOp (op : HostOp) (s : State) : Host.Outcome State Fault Refusal :=
  match op with
  | .hwr r v => portWrite r v s
  | .hrd r => .next (portRead r s)
  | .hwb b i v => .next (bufferWrite b i v s)
  | .hrb b i => .next (bufferRead b i s)

/-- Put the rest of a pseudo-instruction's expansion first among what is to come (R87). -/
def continueWith (more : List HostOp) (s : State) : State :=
  match more with
  | [] => s
  | op :: ops => { s with inputs := .pseudo (op :: ops) :: s.inputs }

/-- The first statement of a pseudo-instruction's expansion; "The expansion stops at the first refusal" (R87). -/
def runPseudo (ops : List HostOp) (s : State) : Host.Outcome State Fault Refusal :=
  match ops with
  | [] => .next s
  | op :: more =>
    match hostOp op s with
    | .next t => .next (if t.refusals.length = s.refusals.length then continueWith more t else t)
    | .fault r => .fault r
    | .refused r => .refused r

/-- One event of the total order (R59): a HOST operation, a MEDIUM delivery or answer, or reset. -/
def takeInput (i : Input) (s : State) : Host.Outcome State Fault Refusal :=
  match i with
  | .host op => hostOp op s
  | .pseudo ops => runPseudo ops s
  | .deliver f => takeDelivery f s
  | .answer a => .next (takeAnswer a s)
  | .reset => .next (resetEngine s)

/-- The next event is taken off the order and happens. With none to come the ENGINE takes no step and waits (R143, R211;
log entry 5). -/
def takeNext (s : State) : Host.Outcome State Fault Refusal :=
  match s.inputs with
  | [] => .next s
  | i :: rest => takeInput i { s with inputs := rest }

/-- HOST's write of the command word with the bits of `w` (numbered as the opcode table numbers them, those above
`nbits` zero) as the next event. -/
def placeCommand (nbits w : Nat) (s : State) : State :=
  { s with inputs := .host (.hwr 0x00 (w % 2 ^ nbits)) :: s.inputs }

end Sys2Proof.Machine
end

