-- ==== Sys2Proof/Machine/Step.lean ====
section
/-! DEFINITION. One step of the machine: one event of the single total order of 20_memory.md R59. -/

namespace Sys2Proof.Machine

/-- One atomic event (00_scope.md R16, R17; 20_memory.md R59). -/
def step (s : State) : Host.Outcome State Fault Refusal := takeNext s

/-- `s` with the instruction `w` where the next step takes it: as HOST's next port operation, a write of `CMD`
(30_encoding.md R80; log entry 19). -/
def State.withFetchWord (s : State) (nbits w : Nat) : State := placeCommand nbits w s

end Sys2Proof.Machine
end

