-- ==== Sys2Proof/Machine/Asm.lean ====
section
/-! DEFINITION. The assembly of HOST programs (30_encoding.md R86, R87; 00_scope.md R13): the statements, what each
puts into the order of events, and the reading of one line of text. -/

namespace Sys2Proof.Machine

/-- A statement (R86), a pseudo-instruction (R87), or one of the MEDIUM actions that only test programs write. -/
inductive Stmt where
  | hwr (r v : Nat)
  | hrd (r : Nat)
  | hwb (b : Buf) (i v : Nat)
  | hrb (b : Buf) (i : Nat)
  | command (i : Instr)
  | ldFrame (bs : List Nat)
  | ldPay (bs : List Nat)
  | ldHdr (dst src et : Nat)
  | rx (f : Frame)
  | txOk
  | txFail
  deriving DecidableEq, Repr

/-- `HWB B, i, b_i` for each byte, in order, from index `i` (R87). -/
def loadBytes (b : Buf) (i : Nat) : List Nat → List HostOp
  | [] => []
  | v :: vs => .hwb b i v :: loadBytes b (i + 1) vs

/-- The event a statement stands for. A command's mnemonic is exactly `HWR CMD, <word>` (R86); a pseudo-instruction is
its expansion (R87). -/
def stmtInput : Stmt → Input
  | .hwr r v => .host (.hwr r v)
  | .hrd r => .host (.hrd r)
  | .hwb b i v => .host (.hwb b i v)
  | .hrb b i => .host (.hrb b i)
  | .command i => .host (.hwr (regIndex .cmd) (encodeWord i).toNat)
  | .ldFrame bs => .pseudo (.hwr (regIndex .frameLen) bs.length :: loadBytes .frame 0 bs)
  | .ldPay bs => .pseudo (.hwr (regIndex .opLen) bs.length :: loadBytes .op 0 bs)
  | .ldHdr dst src et =>
    .pseudo [.hwr (regIndex .opDst) dst, .hwr (regIndex .opSrc) src, .hwr (regIndex .opEtype) et]
  | .rx f => .deliver f
  | .txOk => .answer .ok
  | .txFail => .answer .fail

/-- A machine with a program to come (log entry 4): its statements, in order, after whatever is already to come. -/
def loadProgram (prog : List Stmt) (s : State) : State := { s with inputs := s.inputs ++ prog.map stmtInput }

/-- A blank of a line of text. -/
def isBlank (c : Char) : Bool := c = ' ' || c = '\t' || c = '\r'

/-- Text without the blanks at its two ends. -/
def trimBlanks (t : List Char) : List Char := ((t.dropWhile isBlank).reverse.dropWhile isBlank).reverse

/-- Text split at each `sep`. -/
def splitAtChar (sep : Char) : List Char → List (List Char)
  | [] => [[]]
  | c :: cs =>
    if c = sep then [] :: splitAtChar sep cs
    else
      match splitAtChar sep cs with
      | [] => [[c]]
      | w :: ws => (c :: w) :: ws

/-- The non-empty words of a text between blanks. -/
def textWords (t : List Char) : List (List Char) :=
  (splitAtChar ' ' (t.map fun c => if isBlank c then ' ' else c)).filter fun w => !w.isEmpty

/-- The operands of a statement, between commas; none at all for an empty text. -/
def textArgs (t : List Char) : List (List Char) :=
  match trimBlanks t with
  | [] => []
  | u => (splitAtChar ',' u).map trimBlanks

/-- A decimal digit's value. -/
def decDigit (c : Char) : Option Nat :=
  if 48 ≤ c.toNat ∧ c.toNat ≤ 57 then some (c.toNat - 48) else none

/-- A hexadecimal digit's value; case is immaterial (R13). -/
def hexDigit (c : Char) : Option Nat :=
  if 48 ≤ c.toNat ∧ c.toNat ≤ 57 then some (c.toNat - 48)
  else if 97 ≤ c.toNat ∧ c.toNat ≤ 102 then some (c.toNat - 87)
  else if 65 ≤ c.toNat ∧ c.toNat ≤ 70 then some (c.toNat - 55)
  else none

/-- Digits read in a base, after those that gave `acc`. -/
def readDigits (digit : Char → Option Nat) (base : Nat) : Nat → List Char → Option Nat
  | acc, [] => some acc
  | acc, c :: cs =>
    match digit c with
    | none => none
    | some d => readDigits digit base (acc * base + d) cs

/-- One octet: exactly two hexadecimal digits (R13; log entry 16 for its use after `@RX`). -/
def readOctet (t : List Char) : Option Nat := if t.length = 2 then readDigits hexDigit 16 0 t else none

/-- An address literal: six octets between colons, the first one most significant (R13). -/
def readAddress (t : List Char) : Option Nat :=
  match (splitAtChar ':' t).mapM readOctet with
  | some [a, b, c, d, e, f] => some (((((a * 256 + b) * 256 + c) * 256 + d) * 256 + e) * 256 + f)
  | _ => none

/-- A number: hexadecimal with `0x`, or decimal, or an address literal (R86, R13). -/
def readNumber (t : List Char) : Option Nat :=
  match t with
  | [] => none
  | '0' :: 'x' :: c :: cs => readDigits hexDigit 16 0 (c :: cs)
  | c :: cs => if ':' ∈ c :: cs then readAddress (c :: cs) else readDigits decDigit 10 0 (c :: cs)

/-- The register names of R21, in the order of their indices. -/
def regNames : List String :=
  ["CMD", "STATUS", "STATE", "FILTER_ETYPE", "OP_DST", "OP_SRC", "OP_ETYPE", "OP_VLAN", "OP_LEN", "FRAME_LEN", "RES_DST",
    "RES_SRC", "RES_ETYPE", "RES_TAGGED", "RES_TCI", "RES_VID", "RES_POFF", "RES_PLEN"]

/-- A register's name or its index (R86). -/
def readReg (t : List Char) : Option Nat :=
  match regNames.findIdx? fun n => n.toList = t with
  | some i => some i
  | none => readNumber t

/-- A buffer's name (R86). -/
def readBuf (t : List Char) : Option Buf :=
  if t = "FRAME_BUF".toList then some .frame else if t = "OP_BUF".toList then some .op else none

/-- The mnemonics of R82. -/
def mnemonics : List (String × Instr) :=
  [("ENCODE", .encode), ("ENCODE.V", .encodeV), ("DECODE", .decode), ("FILTER", .filter), ("SWAP", .swap),
    ("QUALIFY.AE", .qualifyAe), ("QUALIFY.AEP", .qualifyAep), ("QUALIFY.A", .qualifyA), ("SETFILTER", .setfilter),
    ("START", .start), ("STOP", .stop)]

/-- The command of a mnemonic (R82, R86). -/
def readMnemonic (t : List Char) : Option Instr := (mnemonics.find? fun p => p.1.toList = t).map Prod.snd

/-- A statement from its first word, the text after it and that text's operands (R86, R87). -/
def readStmt (head rest : List Char) (args : List (List Char)) : Option Stmt :=
  if head = "HWR".toList then
    match args with
    | [r, v] => do return .hwr (← readReg r) (← readNumber v)
    | _ => none
  else if head = "HRD".toList then
    match args with
    | [r] => do return .hrd (← readReg r)
    | _ => none
  else if head = "HWB".toList then
    match args with
    | [b, i, v] => do return .hwb (← readBuf b) (← readNumber i) (← readNumber v)
    | _ => none
  else if head = "HRB".toList then
    match args with
    | [b, i] => do return .hrb (← readBuf b) (← readNumber i)
    | _ => none
  else if head = "LDFRAME".toList then (args.mapM readNumber).map .ldFrame
  else if head = "LDPAY".toList then (args.mapM readNumber).map .ldPay
  else if head = "LDHDR".toList then
    match args with
    | [d, s, e] => do return .ldHdr (← readNumber d) (← readNumber s) (← readNumber e)
    | _ => none
  else if head = "@RX".toList then ((textWords rest).mapM readOctet).map fun bs => .rx (bs.map (BitVec.ofNat 8))
  else if args ≠ [] then none
  else if head = "@TXOK".toList then some .txOk
  else if head = "@TXFAIL".toList then some .txFail
  else (readMnemonic head).map .command

/-- What one line of text holds (R86): nothing, a statement, or no statement at all. -/
inductive LineResult where
  | blank
  | stmt (s : Stmt)
  | malformed
  deriving DecidableEq, Repr

/-- Read one line (R86): a `;` starts a comment. -/
def readLine (line : List Char) : LineResult :=
  match trimBlanks (line.takeWhile (· ≠ ';')) with
  | [] => .blank
  | c :: cs =>
    let head := (c :: cs).takeWhile fun x => !isBlank x
    let rest := (c :: cs).dropWhile fun x => !isBlank x
    match readStmt head rest (textArgs rest) with
    | some st => .stmt st
    | none => .malformed

/-- Read a program, one statement a line; none when a line is malformed (R86). -/
def readProgram : List (List Char) → Option (List Stmt)
  | [] => some []
  | l :: ls =>
    match readLine l with
    | .blank => readProgram ls
    | .malformed => none
    | .stmt st => (readProgram ls).map (st :: ·)

end Sys2Proof.Machine
end

