-- ==== Sys2Proof/Safety.lean ====
section
/-! DEFINITION. What claims speak of: a clean state (60_exceptions.md R195), the invariants of a state, the order the
history records (20_memory.md R62), and what a step leaves in place. -/

namespace Sys2Proof.Machine

/-- The opcode map of R82, written out: the word of each command. -/
def tableWord : Instr → Word
  | .encode => 0x00000001#32
  | .encodeV => 0x00000101#32
  | .decode => 0x00000002#32
  | .filter => 0x00000003#32
  | .swap => 0x00000004#32
  | .qualifyAe => 0x00000005#32
  | .qualifyAep => 0x00000105#32
  | .qualifyA => 0x00000205#32
  | .setfilter => 0x00000010#32
  | .start => 0x00000011#32
  | .stop => 0x00000012#32

/-- The reserved and illegal command words, as R83 lists them by `RSV`, `OPC` and `MOD`. -/
def ReservedWord (w : Word) : Prop :=
  w.extractLsb' 10 22 ≠ 0#22 ∨
  (w.extractLsb' 0 8 = 0x00#8 ∨ (0x06#8 ≤ w.extractLsb' 0 8 ∧ w.extractLsb' 0 8 ≤ 0x0F#8) ∨ 0x13#8 ≤ w.extractLsb' 0 8) ∨
  (w.extractLsb' 0 8 = 0x01#8 ∧ (w.extractLsb' 8 2 = 0b10#2 ∨ w.extractLsb' 8 2 = 0b11#2)) ∨
  (w.extractLsb' 0 8 = 0x05#8 ∧ w.extractLsb' 8 2 = 0b11#2) ∨
  (w.extractLsb' 0 8 ∈ [0x02#8, 0x03#8, 0x04#8, 0x10#8, 0x11#8, 0x12#8] ∧ w.extractLsb' 8 2 ≠ 0#2)

/-- The table of R84: all eleven commands in `IDLE`, `STOP` alone in `LISTEN` and `TX_WAIT`, none in `TERMINATED`. -/
def AllowedIn (i : Instr) (e : EngineState) : Prop := e = .idle ∨ (i = .stop ∧ e ≠ .terminated)

/-- The next event is HOST's write of command `i`'s word to `CMD`, by itself or as the next statement of a
pseudo-instruction's expansion. -/
def IssuesCommand (s : State) (i : Instr) : Prop :=
  ∃ v rest, v < 2 ^ 32 ∧ decodeWord (BitVec.ofNat 32 v) = .ok i ∧
    (s.inputs = .host (.hwr 0x00 v) :: rest ∨ ∃ ops, s.inputs = .pseudo (.hwr 0x00 v :: ops) :: rest)

/-- The next event is the reset input. -/
def NextIsReset (s : State) : Prop := ∃ rest, s.inputs = .reset :: rest

/-- The length of the frame that ENCODE or ENCODE.V would build, where `OP_LEN` is written (R102, R103). -/
def encodedLength (i : Instr) (s : State) : Option Nat :=
  match i with
  | .encode => s.opLen.map fun n => 14 + n.toNat
  | .encodeV => s.opLen.map fun n => 18 + n.toNat
  | .decode => none
  | .filter => none
  | .swap => none
  | .qualifyAe => none
  | .qualifyAep => none
  | .qualifyA => none
  | .setfilter => none
  | .start => none
  | .stop => none

/-- "No fault recorded and not refused" (R39, R195). -/
def Clean (s : State) : Prop := s.faults = [] ∧ s.refused = false

/-- The buffers keep their canonical form and list no index at or above `BUF_CAP` (R34). -/
def BuffersOk (s : State) : Prop :=
  Memory.wf s.frameBuf ∧ Memory.within Config.bufCap s.frameBuf ∧ Memory.wf s.opBuf ∧ Memory.within Config.bufCap s.opBuf

/-- `FRAME_LEN` and `OP_LEN` never exceed `BUF_CAP` (R56). -/
def LengthsOk (s : State) : Prop :=
  (∀ n, s.frameLen = some n → n.toNat ≤ Config.bufCap) ∧ (∀ n, s.opLen = some n → n.toNat ≤ Config.bufCap)

/-- `TX_PEND` is non-empty exactly when `STATE == TX_WAIT` (R30). -/
def PendingOk (s : State) : Prop := s.txPend.isSome = true ↔ s.engine = .txWait

/-- The result registers describe one parsed frame (R33, R104): all of them unwritten, or those of a tagged frame, or
those of an untagged frame. -/
def ResultsOk (s : State) : Prop :=
  (s.resDst = none ∧ s.resSrc = none ∧ s.resEtype = none ∧ s.resTagged = none ∧ s.resTci = none ∧ s.resVid = none ∧
    s.resPoff = none ∧ s.resPlen = none) ∨
  (s.resDst.isSome = true ∧ s.resSrc.isSome = true ∧ s.resEtype.isSome = true ∧ s.resPlen.isSome = true ∧
    ((s.resTagged = some 1#1 ∧ s.resPoff = some 18#16 ∧ ∃ tci, s.resTci = some tci ∧ s.resVid = some (tci.extractLsb' 0 12)) ∨
     (s.resTagged = some 0#1 ∧ s.resPoff = some 14#16 ∧ s.resTci = none ∧ s.resVid = none)))

/-- `REFUSED` is set exactly when a refusal is on record (R39). -/
def RefusedOk (s : State) : Prop := s.refused = true ↔ s.refusals ≠ []

/-- Where the reading of a history stands: what is pending and the frame received by the event just before. -/
structure HistPos where
  pending : Option Frame
  justRx  : Option Frame
  deriving DecidableEq, Repr

/-- May event `e` come where the history stands at `p`, and where does it stand then? A frame is received only while
nothing is pending, a reply follows at once the frame it answers, and an answer names the pending reply (R62, R141,
R142). -/
def histNext (p : HistPos) : HistEvent → Option HistPos
  | .rx f => if p.pending = none then some ⟨none, some f⟩ else none
  | .tx r =>
    match p.pending, p.justRx with
    | none, some f => if r = replyFn f ∧ 14 ≤ f.length then some ⟨some r, none⟩ else none
    | _, _ => none
  | .txOk r => if p.pending = some r then some ⟨none, none⟩ else none
  | .txFail r => if p.pending = some r then some ⟨none, none⟩ else none
  | .stopped => some ⟨none, none⟩
  | .reset => some ⟨none, none⟩

/-- Read a history from a position; `none` when an event may not come where it stands. -/
def histRun (p : HistPos) : List HistEvent → Option HistPos
  | [] => some p
  | e :: es =>
    match histNext p e with
    | none => none
    | some q => histRun q es

/-- The history is in the responder's order, begins with a reset, and ends with `TX_PEND` pending (R29, R30, R62). -/
def HistoryOk (s : State) : Prop :=
  s.hist.head? = some .reset ∧ ∃ p, histRun ⟨none, none⟩ s.hist = some p ∧ p.pending = s.txPend

/-- "The frame" of `s` is `b`: `FRAME_LEN` holds its length and `FRAME_BUF[0..FRAME_LEN-1]` its bytes (R34). -/
def HoldsFrame (s : State) (b : Frame) : Prop :=
  ∃ n, s.frameLen = some n ∧ n.toNat = b.length ∧ ∀ i, i < b.length → Memory.read s.frameBuf i = b[i]?

/-- "The payload operand" of `s` is `p`: `OP_LEN` holds its length and `OP_BUF[0..OP_LEN-1]` its bytes (R34). -/
def HoldsPayload (s : State) (p : Frame) : Prop :=
  ∃ n, s.opLen = some n ∧ n.toNat = p.length ∧ ∀ i, i < p.length → Memory.read s.opBuf i = p[i]?

/-- The registers each command reads that may be unwritten (the "Operands" lines of R102–R104, R132–R137, R172–R176). -/
def operandRegs : Instr → List RegName
  | .encode => [.opDst, .opSrc, .opEtype, .opLen]
  | .encodeV => [.opDst, .opSrc, .opEtype, .opVlan, .opLen]
  | .decode => [.frameLen]
  | .filter => [.frameLen]
  | .swap => [.frameLen]
  | .qualifyAe => [.frameLen, .opSrc, .opDst, .opEtype]
  | .qualifyAep => [.frameLen, .opSrc, .opDst, .opEtype, .opLen]
  | .qualifyA => [.frameLen, .opSrc, .opDst]
  | .setfilter => [.opEtype]
  | .start => []
  | .stop => []

/-- The commands whose operands include `FRAME_BUF[0..FRAME_LEN-1]`. -/
def readsFrame : Instr → Bool
  | .encode => false
  | .encodeV => false
  | .decode => true
  | .filter => true
  | .swap => true
  | .qualifyAe => true
  | .qualifyAep => true
  | .qualifyA => true
  | .setfilter => false
  | .start => false
  | .stop => false

/-- The commands whose operands include `OP_BUF[0..OP_LEN-1]`. -/
def readsPayload : Instr → Bool
  | .encode => true
  | .encodeV => true
  | .decode => false
  | .filter => false
  | .swap => false
  | .qualifyAe => false
  | .qualifyAep => true
  | .qualifyA => false
  | .setfilter => false
  | .start => false
  | .stop => false

/-- `name` is a register or byte that command `i` reads in `s` and that is unwritten (R24). -/
def MissingOperand (i : Instr) (s : State) (name : CellName) : Prop :=
  (∃ r ∈ operandRegs i, name = .reg r ∧ regRead s r = none) ∨
  (readsFrame i = true ∧ ∃ n k, s.frameLen = some n ∧ k < n.toNat ∧ Memory.read s.frameBuf k = none ∧ name = .byte .frame k) ∨
  (readsPayload i = true ∧ ∃ n k, s.opLen = some n ∧ k < n.toNat ∧ Memory.read s.opBuf k = none ∧ name = .byte .op k)

/-- Outside `IDLE` command `i` is refused and nothing but the mark changes (R39, R84). -/
def RefusedOutsideIdle (i : Instr) (s : State) : Prop :=
  s.engine ≠ .idle → exec i s = .next (recordRefusal (.commandInState i s.engine) s)

/-- In `IDLE` an unwritten operand of command `i` faults: `FAULTS` gains one that is unwritten, nothing else changes
(R24, R39). -/
def FaultsOnUnwritten (i : Instr) (s : State) : Prop :=
  s.engine = .idle → (∃ name, MissingOperand i s name) →
    ∃ name, MissingOperand i s name ∧ exec i s = .next (recordFault name s)

/-- All the invariants of a state together. -/
def Inv (s : State) : Prop :=
  BuffersOk s ∧ LengthsOk s ∧ PendingOk s ∧ ResultsOk s ∧ RefusedOk s ∧ HistoryOk s

/-- The registers of R32, which only HOST writes but `FRAME_LEN`, are the same in both states. -/
def SameOperands (s t : State) : Prop :=
  t.opDst = s.opDst ∧ t.opSrc = s.opSrc ∧ t.opEtype = s.opEtype ∧ t.opVlan = s.opVlan ∧ t.opLen = s.opLen

/-- The result registers of R33 are the same in both states. -/
def SameResults (s t : State) : Prop :=
  t.resDst = s.resDst ∧ t.resSrc = s.resSrc ∧ t.resEtype = s.resEtype ∧ t.resTagged = s.resTagged ∧
    t.resTci = s.resTci ∧ t.resVid = s.resVid ∧ t.resPoff = s.resPoff ∧ t.resPlen = s.resPlen

/-- `FRAME_LEN` and every byte of `FRAME_BUF` read the same in both states. -/
def SameFrame (s t : State) : Prop :=
  t.frameLen = s.frameLen ∧ ∀ a, Memory.read t.frameBuf a = Memory.read s.frameBuf a

/-- Every byte of `OP_BUF` reads the same in both states. -/
def SamePayload (s t : State) : Prop := ∀ a, Memory.read t.opBuf a = Memory.read s.opBuf a

/-- `STATE`, `FILTER_ETYPE`, `TX_PEND` and `H` are the same in both states. -/
def SameControl (s t : State) : Prop :=
  t.engine = s.engine ∧ t.filterEtype = s.filterEtype ∧ t.txPend = s.txPend ∧ t.hist = s.hist

/-- The marks, and what HOST has read and what is to come, are the same in both states. -/
def SameMarks (s t : State) : Prop :=
  t.faults = s.faults ∧ t.refused = s.refused ∧ t.refusals = s.refusals ∧ t.hostReads = s.hostReads ∧ t.inputs = s.inputs

end Sys2Proof.Machine
end

