-- ==== Sys2Proof/Certificates/Slice0/Obligations.lean ====
section
/-! DEFINITION. The statements about L2FE, each from the numbered rules of spec/. `hostOp`s and MEDIUM events are the
entries of `inputs`; a statement about a command speaks of `exec`, and O5 says that a step runs it. -/

open Sys2Proof Sys2Proof.Machine

/-! ## Encoding (30_encoding.md) -/

/-- A few words of R82, and one word of each kind that R83 reserves. -/
def Obligations.SomeTableWordsDecode : Prop :=
  decodeWord 0x00000001#32 = .ok .encode ∧ decodeWord 0x00000101#32 = .ok .encodeV ∧
  decodeWord 0x00000004#32 = .ok .swap ∧ decodeWord 0x00000205#32 = .ok .qualifyA ∧
  decodeWord 0x00000012#32 = .ok .stop ∧ decodeWord 0x00000000#32 = .error (.noSuchOpcode 0x00#8) ∧
  decodeWord 0x00000201#32 = .error (.reservedMode 0x01#8 0b10#2) ∧
  decodeWord 0x00000401#32 = .error (.reservedBits 1#22)

/-- R82: a word is a command exactly when it is that command's word of the opcode map, the encoder writes that word, and
every word that is in no row is refused. -/
def Obligations.DecodeIffTableWord : Prop :=
  (∀ i : Instr, encodeWord i = tableWord i) ∧ (∀ (w : Word) (i : Instr), decodeWord w = .ok i ↔ w = tableWord i) ∧
  ∀ (w : Word) (s : State), (∀ i, w ≠ tableWord i) → issueCommand w s = .next (recordRefusal (.unknownCommand w) s)

/-- R83: exactly the words it lists are rejected, and HOST's write of one refuses `UnknownCommand` and writes no status. -/
def Obligations.ReservedWordsRefused : Prop :=
  ∀ w : Word, ((∃ e, decodeWord w = .error e) ↔ ReservedWord w) ∧
    ∀ (s : State) (rest : List Input), ReservedWord w → s.inputs = .host (.hwr 0x00 w.toNat) :: rest →
      ∃ t, step s = .next t ∧ t = recordRefusal (.unknownCommand w) { s with inputs := rest } ∧ t.status = s.status

/-- A row of the opcode table read at any width of bits is command `i` exactly when its bits are `i`'s word. -/
def Obligations.TableWordReadsItsCommand : Prop :=
  ∀ (nbits w : Nat) (i : Instr), decodeTableWord nbits w = some i ↔ w % 2 ^ nbits = (tableWord i).toNat

/-! ## The step and the gate of commands -/

/-- A step in which HOST writes to `CMD` a word that decodes to `i` runs `i`, with that event taken off the order (R25, R80).
An assembler mnemonic is that same write (R86). The clause about `withFetchWord` is the model's choice (log entry 19): L2FE
fetches nothing, and that function places HOST's write as the next event. -/
def Obligations.StepRunsDecodedCommand : Prop :=
  (∀ (s : State) (rest : List Input) (w : Word) (i : Instr), s.inputs = .host (.hwr 0x00 w.toNat) :: rest →
    decodeWord w = .ok i → step s = exec i { s with inputs := rest }) ∧
  (∀ (s : State) (nbits w : Nat) (i : Instr), decodeTableWord nbits w = some i →
    step (s.withFetchWord nbits w) = exec i s) ∧
  ∀ i : Instr, stmtInput (.command i) = .host (.hwr 0x00 (tableWord i).toNat)

/-- R84: a command in its row is never refused for the engine state; one outside it is, and nothing else changes. -/
def Obligations.CommandsAllowedByState : Prop :=
  ∀ (i : Instr) (s : State), ∃ t, exec i s = .next t ∧
    (AllowedIn i s.engine → ∀ j e, t.refusals ≠ s.refusals ++ [.commandInState j e]) ∧
    (¬AllowedIn i s.engine → t = recordRefusal (.commandInState i s.engine) s)

/-- R195: of the outcomes that apply to a command word, the first in the rule's order is taken. -/
def Obligations.CommandPriority : Prop :=
  ∀ (w : Word) (s : State),
    ((∃ e, decodeWord w = .error e) → issueCommand w s = .next (recordRefusal (.unknownCommand w) s)) ∧
    ∀ i, decodeWord w = .ok i →
      (¬AllowedIn i s.engine → issueCommand w s = .next (recordRefusal (.commandInState i s.engine) s)) ∧
      (AllowedIn i s.engine → (∃ name, MissingOperand i s name) →
        ∃ name, MissingOperand i s name ∧ issueCommand w s = .next (recordFault name s)) ∧
      (AllowedIn i s.engine → (¬∃ name, MissingOperand i s name) →
        (∀ n, encodedLength i s = some n → Config.bufCap < n →
          issueCommand w s = .next (recordRefusal (.frameOverCapacity n) s)) ∧
        ((∀ n, encodedLength i s = some n → n ≤ Config.bufCap) →
          ∃ t, issueCommand w s = .next t ∧ t.status ≠ .noneYet ∧ SameMarks s t))

/-! ## The frame functions -/

/-- R100: the two layouts, their lengths, and the one failure. -/
def Obligations.EncodeFnLayout : Prop :=
  ∀ (dst src : Addr) (et : Half) (p : Frame) (v : Half),
    encodeFn dst src et p none = .frame (bytes48 dst ++ bytes48 src ++ bytes16 et ++ p) ∧
    (bytes48 dst ++ bytes48 src ++ bytes16 et ++ p).length = 14 + p.length ∧
    (4095 < v.toNat → encodeFn dst src et p (some v) = .invalidVlanId) ∧
    (v.toNat ≤ 4095 → ∃ f, encodeFn dst src et p (some v) = .frame f ∧ f.length = 18 + p.length ∧
      f = bytes48 dst ++ bytes48 src ++ [0x81#8, 0x00#8] ++ bytes16 ((v.extractLsb' 0 12).setWidth 16) ++ bytes16 et ++ p ∧
      (v.extractLsb' 0 12).setWidth 16 = v)

/-- R101: what `decodeFn` answers, by length and by the field at offset 12. -/
def Obligations.DecodeFnFields : Prop :=
  ∀ b : Frame,
    (b.length < 14 → decodeFn b = .reject) ∧
    (18 ≤ b.length → be16 b 12 = 0x8100#16 →
      decodeFn b = .parsed ⟨be48 b 0, be48 b 6, true, some (be16 b 14), be16 b 16, 18, b.length - 18⟩) ∧
    (14 ≤ b.length → ¬(18 ≤ b.length ∧ be16 b 12 = 0x8100#16) →
      decodeFn b = .parsed ⟨be48 b 0, be48 b 6, false, none, be16 b 12, 14, b.length - 14⟩)

/-- R73 by length class. -/
def Obligations.FrameFormByLengthClass : Prop :=
  ∀ b : Frame,
    (b.length ≤ 13 → frameForm b = .reject) ∧
    (14 ≤ b.length → b.length ≤ 17 → frameForm b = .untagged ∧ effectiveEtype b = some (be16 b 12) ∧
      framePayload b = some (b.drop 14) ∧ (b.drop 14).length ≤ 3) ∧
    (18 ≤ b.length → be16 b 12 = 0x8100#16 → frameForm b = .tagged ∧ effectiveEtype b = some (be16 b 16)) ∧
    (18 ≤ b.length → be16 b 12 ≠ 0x8100#16 → frameForm b = .untagged)

/-- R74, R75: the fields `decodeFn` reports are the effective EtherType and the payload of the frame. -/
def Obligations.DecodedEtypeAndPayload : Prop :=
  ∀ b : Frame,
    (decodeFn b = .reject ↔ frameForm b = .reject) ∧ (decodeFn b = .reject → effectiveEtype b = none) ∧
    ∀ p, decodeFn b = .parsed p →
      effectiveEtype b = some (if p.tagged then be16 b 16 else be16 b 12) ∧ effectiveEtype b = some p.etype ∧
      (p.tagged = true ↔ frameForm b = .tagged) ∧ p.poff = (if p.tagged then 18 else 14) ∧
      framePayload b = some (b.drop p.poff) ∧ frameSlice b p.poff p.plen = b.drop p.poff ∧ p.plen = b.length - p.poff

/-- R12, R51: the first wire octet is the most significant byte of the value. -/
def Obligations.BigEndianFields : Prop :=
  ∀ (b : Frame) (i : Nat),
    ((be16 b i).extractLsb' 8 8 = byteAt b i ∧ (be16 b i).extractLsb' 0 8 = byteAt b (i + 1)) ∧
    ((be48 b i).extractLsb' 40 8 = byteAt b i ∧ (be48 b i).extractLsb' 32 8 = byteAt b (i + 1) ∧
      (be48 b i).extractLsb' 24 8 = byteAt b (i + 2) ∧ (be48 b i).extractLsb' 16 8 = byteAt b (i + 3) ∧
      (be48 b i).extractLsb' 8 8 = byteAt b (i + 4) ∧ (be48 b i).extractLsb' 0 8 = byteAt b (i + 5))

/-! ## The Frame Codec (40_codec.md) -/

/-- R102: ENCODE. The frame stands at `FRAME_BUF[0..13+n]`; every other byte and register is as before. -/
def Obligations.EncodeFollowsItsRule : Prop :=
  decodeWord 0x00000001#32 = .ok .encode ∧
  ∀ s : State, RefusedOutsideIdle .encode s ∧ FaultsOnUnwritten .encode s ∧
    ∀ dst src et p, s.engine = .idle → s.opDst = some dst → s.opSrc = some src → s.opEtype = some et → HoldsPayload s p →
      (Config.bufCap < 14 + p.length →
        exec .encode s = .next (recordRefusal (.frameOverCapacity (14 + p.length)) s)) ∧
      (14 + p.length ≤ Config.bufCap → ∃ t, exec .encode s = .next t ∧ t.status = .ok ∧
        t.frameLen = some (BitVec.ofNat 16 (14 + p.length)) ∧
        HoldsFrame t (bytes48 dst ++ bytes48 src ++ bytes16 et ++ p) ∧
        (∀ a, 14 + p.length ≤ a → Memory.read t.frameBuf a = Memory.read s.frameBuf a) ∧
        SameOperands s t ∧ SameResults s t ∧ SamePayload s t ∧ SameControl s t ∧ SameMarks s t)

/-- R103: ENCODE.V. The capacity comes before the VLAN id; an illegal id changes `STATUS` alone. -/
def Obligations.EncodeVFollowsItsRule : Prop :=
  decodeWord 0x00000101#32 = .ok .encodeV ∧
  ∀ s : State, RefusedOutsideIdle .encodeV s ∧ FaultsOnUnwritten .encodeV s ∧
    ∀ dst src et v p, s.engine = .idle → s.opDst = some dst → s.opSrc = some src → s.opEtype = some et →
      s.opVlan = some v → HoldsPayload s p →
      (Config.bufCap < 18 + p.length →
        exec .encodeV s = .next (recordRefusal (.frameOverCapacity (18 + p.length)) s)) ∧
      (18 + p.length ≤ Config.bufCap → 4095 < v.toNat → exec .encodeV s = .next { s with status := .invalidVlanId }) ∧
      (18 + p.length ≤ Config.bufCap → v.toNat ≤ 4095 → ∃ t, exec .encodeV s = .next t ∧ t.status = .ok ∧
        t.frameLen = some (BitVec.ofNat 16 (18 + p.length)) ∧
        HoldsFrame t (bytes48 dst ++ bytes48 src ++ [0x81#8, 0x00#8] ++ bytes16 v ++ bytes16 et ++ p) ∧
        (∀ a, 18 + p.length ≤ a → Memory.read t.frameBuf a = Memory.read s.frameBuf a) ∧
        SameOperands s t ∧ SameResults s t ∧ SamePayload s t ∧ SameControl s t ∧ SameMarks s t)

/-- R104: DECODE. It writes the result registers and `STATUS`, and nothing else. -/
def Obligations.DecodeFollowsItsRule : Prop :=
  decodeWord 0x00000002#32 = .ok .decode ∧
  ∀ s : State, RefusedOutsideIdle .decode s ∧ FaultsOnUnwritten .decode s ∧
    ∀ b, s.engine = .idle → HoldsFrame s b → ∃ t, exec .decode s = .next t ∧
      (b.length < 14 → t.status = .reject ∧ t.resDst = none ∧ t.resSrc = none ∧ t.resEtype = none ∧ t.resTagged = none ∧
        t.resTci = none ∧ t.resVid = none ∧ t.resPoff = none ∧ t.resPlen = none) ∧
      (14 ≤ b.length → t.status = .ok ∧ t.resDst = some (be48 b 0) ∧ t.resSrc = some (be48 b 6)) ∧
      (18 ≤ b.length → be16 b 12 = 0x8100#16 → t.resEtype = some (be16 b 16) ∧ t.resTagged = some 1#1 ∧
        t.resTci = some (be16 b 14) ∧ t.resVid = some ((be16 b 14).extractLsb' 0 12) ∧ t.resPoff = some 18#16 ∧
        t.resPlen = some (BitVec.ofNat 16 (b.length - 18))) ∧
      (14 ≤ b.length → ¬(18 ≤ b.length ∧ be16 b 12 = 0x8100#16) → t.resEtype = some (be16 b 12) ∧
        t.resTagged = some 0#1 ∧ t.resTci = none ∧ t.resVid = none ∧ t.resPoff = some 14#16 ∧
        t.resPlen = some (BitVec.ofNat 16 (b.length - 14))) ∧
      SameFrame s t ∧ SameOperands s t ∧ SamePayload s t ∧ SameControl s t ∧ SameMarks s t

/-- R105: ENCODE followed by DECODE gives the operands back, and what it gives for EtherType `0x8100` with a payload of 4
bytes or more. -/
def Obligations.UntaggedRoundTrip : Prop :=
  ∀ (s : State) (dst src : Addr) (et : Half) (p : Frame), s.engine = .idle → s.opDst = some dst → s.opSrc = some src →
    s.opEtype = some et → HoldsPayload s p → 14 + p.length ≤ Config.bufCap →
    ∃ t u, exec .encode s = .next t ∧ exec .decode t = .next u ∧
      (et ≠ 0x8100#16 ∨ p.length < 4 → u.status = .ok ∧ u.resDst = some dst ∧ u.resSrc = some src ∧
        u.resTagged = some 0#1 ∧ u.resEtype = some et ∧ u.resPoff = some 14#16 ∧
        u.resPlen = some (BitVec.ofNat 16 p.length) ∧ ∀ k, k < p.length → Memory.read u.frameBuf (14 + k) = p[k]?) ∧
      (et = 0x8100#16 → 4 ≤ p.length → u.status = .ok ∧ u.resTagged = some 1#1 ∧ u.resTci = some (be16 p 0) ∧
        u.resEtype = some (be16 p 2) ∧ u.resPoff = some 18#16 ∧ u.resPlen = some (BitVec.ofNat 16 (p.length - 4)) ∧
        ∀ k, k < p.length - 4 → Memory.read u.frameBuf (18 + k) = (p.drop 4)[k]?)

/-- R106: ENCODE.V followed by DECODE reports the same VLAN id and inner EtherType, for every EtherType. -/
def Obligations.VlanRoundTrip : Prop :=
  ∀ (s : State) (dst src : Addr) (et v : Half) (p : Frame), s.engine = .idle → s.opDst = some dst → s.opSrc = some src →
    s.opEtype = some et → s.opVlan = some v → v.toNat ≤ 4095 → HoldsPayload s p → 18 + p.length ≤ Config.bufCap →
    ∃ t u, exec .encodeV s = .next t ∧ exec .decode t = .next u ∧ u.status = .ok ∧ u.resTagged = some 1#1 ∧
      u.resVid.map BitVec.toNat = some v.toNat ∧ u.resTci = some v ∧ u.resEtype = some et ∧ u.resPoff = some 18#16 ∧
      u.resPlen = some (BitVec.ofNat 16 p.length) ∧ (∀ k, k < p.length → Memory.read u.frameBuf (18 + k) = p[k]?) ∧
      Memory.read u.frameBuf 12 = some 0x81#8 ∧ Memory.read u.frameBuf 13 = some 0x00#8

/-- R107: short frames, and that DECODE's outcome does not depend on any byte at or above the frame's length. -/
def Obligations.ShortFramesDecode : Prop :=
  ∀ (s : State) (b : Frame), s.engine = .idle → HoldsFrame s b →
    (b.length < 14 → ∃ t, exec .decode s = .next t ∧ t.status = .reject) ∧
    (be16 b 12 = 0x8100#16 → 14 ≤ b.length → b.length < 18 →
      ∃ t, exec .decode s = .next t ∧ t.status = .ok ∧ t.resTagged = some 0#1) ∧
    ∀ m : Memory, (∀ a, a < b.length → Memory.read m a = Memory.read s.frameBuf a) →
      ∃ t u, exec .decode s = .next t ∧ exec .decode { s with frameBuf := m } = .next u ∧
        u = { t with frameBuf := m }

/-- R108: a successful ENCODE sets `FRAME_LEN` to 14 + `OP_LEN`, a successful ENCODE.V to 18 + `OP_LEN`, and the payload
stands at that offset. Successful: `STATUS` is `OK` and no mark was made. -/
def Obligations.EncodeLengthAndPayloadOffset : Prop :=
  ∀ s t : State, SameMarks s t → t.status = .ok →
    (exec .encode s = .next t → ∃ n f, s.opLen = some n ∧ t.frameLen = some f ∧ f.toNat = 14 + n.toNat ∧
      ∀ k, k < n.toNat → Memory.read t.frameBuf (14 + k) = Memory.read s.opBuf k) ∧
    (exec .encodeV s = .next t → ∃ n f, s.opLen = some n ∧ t.frameLen = some f ∧ f.toNat = 18 + n.toNat ∧
      ∀ k, k < n.toNat → Memory.read t.frameBuf (18 + k) = Memory.read s.opBuf k)

/-! ## The Echo Responder's commands (41_responder.md) -/

/-- R132: FILTER writes `STATUS` and nothing else. -/
def Obligations.FilterFollowsItsRule : Prop :=
  decodeWord 0x00000003#32 = .ok .filter ∧
  ∀ s : State, RefusedOutsideIdle .filter s ∧ FaultsOnUnwritten .filter s ∧
    ∀ b, s.engine = .idle → HoldsFrame s b →
      (b.length < 14 → exec .filter s = .next { s with status := .reject }) ∧
      (∀ e, effectiveEtype b = some e →
        exec .filter s = .next { s with status := if e = s.filterEtype then .pass else .skip })

/-- R133: SWAP turns the frame into its reply in place; a frame of fewer than 14 bytes is left alone. -/
def Obligations.SwapFollowsItsRule : Prop :=
  decodeWord 0x00000004#32 = .ok .swap ∧
  ∀ s : State, RefusedOutsideIdle .swap s ∧ FaultsOnUnwritten .swap s ∧
    ∀ b, s.engine = .idle → HoldsFrame s b →
      (b.length < 14 → exec .swap s = .next { s with status := .reject }) ∧
      (14 ≤ b.length → ∃ t, exec .swap s = .next t ∧ t.status = .ok ∧ t.frameLen = s.frameLen ∧
        (∀ k, k < 6 → Memory.read t.frameBuf k = Memory.read s.frameBuf (6 + k)) ∧
        (∀ k, k < 6 → Memory.read t.frameBuf (6 + k) = Memory.read s.frameBuf k) ∧
        (∀ a, 12 ≤ a → Memory.read t.frameBuf a = Memory.read s.frameBuf a) ∧
        HoldsFrame t (replyFn b) ∧ replyFn (replyFn b) = b ∧
        (be48 b 0 = be48 b 6 → ∀ a, Memory.read t.frameBuf a = Memory.read s.frameBuf a) ∧
        SameOperands s t ∧ SameResults s t ∧ SamePayload s t ∧ SameControl s t ∧ SameMarks s t)

/-- R134: SETFILTER writes `FILTER_ETYPE` and `STATUS`, and nothing else, for every 16-bit value. -/
def Obligations.SetfilterFollowsItsRule : Prop :=
  decodeWord 0x00000010#32 = .ok .setfilter ∧ State.reset.filterEtype = 0x88B5#16 ∧
  ∀ s : State, RefusedOutsideIdle .setfilter s ∧ FaultsOnUnwritten .setfilter s ∧
    ∀ et, s.engine = .idle → s.opEtype = some et →
      exec .setfilter s = .next { s with filterEtype := et, status := .ok }

/-- R136: START enters `LISTEN`; it reads no operand and changes nothing else, and after it only STOP is accepted. -/
def Obligations.StartFollowsItsRule : Prop :=
  decodeWord 0x00000011#32 = .ok .start ∧
  ∀ s : State, RefusedOutsideIdle .start s ∧
    (s.engine = .idle → exec .start s = .next { s with engine := .listen, status := .ok } ∧
      ∀ i, i ≠ .stop → exec i { s with engine := .listen, status := .ok } =
        .next (recordRefusal (.commandInState i .listen) { s with engine := .listen, status := .ok }))

/-- R137: STOP enters `TERMINATED`, empties `TX_PEND` and emits `STOPPED`; only in `TERMINATED` is it refused. Only reset
leaves `TERMINATED`, and its registers stay readable. -/
def Obligations.StopFollowsItsRule : Prop :=
  decodeWord 0x00000012#32 = .ok .stop ∧ ∀ s : State,
    (s.engine = .terminated → exec .stop s = .next (recordRefusal (.commandInState .stop .terminated) s)) ∧
    (s.engine ≠ .terminated →
      exec .stop s = .next { s with txPend := none, engine := .terminated, hist := s.hist ++ [.stopped], status := .ok }) ∧
    (s.engine = .terminated →
      (∀ t, step s = .next t → t.engine ≠ .terminated → NextIsReset s) ∧
      ∀ n v rest, s.inputs = .host (.hrd (regIndex n)) :: rest → n ≠ .cmd → regRead s n = some v →
        step s = .next { s with inputs := rest, hostReads := s.hostReads ++ [v] })

/-- R135: with the filter value `0x8100`, which SETFILTER accepts, exactly two kinds of frame pass. -/
def Obligations.FilterValue8100 : Prop :=
  (∀ f : Frame, filterFn f 0x8100#16 = .pass ↔
    (14 ≤ f.length ∧ f.length ≤ 17 ∧ be16 f 12 = 0x8100#16) ∨
    (18 ≤ f.length ∧ be16 f 12 = 0x8100#16 ∧ be16 f 16 = 0x8100#16)) ∧
  ∀ s : State, s.engine = .idle → s.opEtype = some 0x8100#16 →
    exec .setfilter s = .next { s with filterEtype := 0x8100#16, status := .ok }

/-! ## The responder's loop -/

/-- R141: the receive step, in its three cases; outside `LISTEN` a frame is not taken. -/
def Obligations.ReceiveStep : Prop :=
  ∀ (s : State) (f : Frame) (rest : List Input), s.inputs = .deliver f :: rest →
    (s.engine ≠ .listen → ∃ t, step s = .next t ∧ t.hist = s.hist ∧ t.engine = s.engine ∧ t.txPend = s.txPend) ∧
    (s.engine = .listen → f.length ≤ Config.bufCap →
      (f.length < 14 → step s = .next { s with inputs := rest, hist := s.hist ++ [.rx f] }) ∧
      (∀ e, effectiveEtype f = some e → e ≠ s.filterEtype →
        step s = .next { s with inputs := rest, hist := s.hist ++ [.rx f] }) ∧
      (effectiveEtype f = some s.filterEtype →
        step s = .next { s with
          inputs := rest, hist := s.hist ++ [.rx f, .tx (replyFn f)], txPend := some (replyFn f), engine := .txWait }))

/-- R142: the transmit-result step. -/
def Obligations.TransmitResultStep : Prop :=
  ∀ (s : State) (r : Frame) (rest : List Input), s.engine = .txWait → s.txPend = some r →
    (s.inputs = .answer .ok :: rest →
      step s = .next { s with inputs := rest, hist := s.hist ++ [.txOk r], txPend := none, engine := .listen }) ∧
    (s.inputs = .answer .fail :: rest →
      step s = .next { s with inputs := rest, hist := s.hist ++ [.txFail r], txPend := none, engine := .listen })

/-- R140: a responder step writes `STATE`, `TX_PEND` and `H` alone, and what it writes depends only on `FILTER_ETYPE`, the
frame or answer MEDIUM gives, `TX_PEND` and `STATE`. -/
def Obligations.ResponderTouchesOnlyItsState : Prop :=
  ∀ (s u : State) (i : Input) (rest rest' : List Input),
    ((∃ f, i = .deliver f) ∨ ∃ a, i = .answer a) → s.inputs = i :: rest → u.inputs = i :: rest' →
    u.engine = s.engine → u.filterEtype = s.filterEtype → u.txPend = s.txPend →
    ∀ t, step s = .next t →
      t = { s with engine := t.engine, txPend := t.txPend, hist := t.hist, inputs := rest } ∧
      ∃ v es, step u = .next v ∧ v.engine = t.engine ∧ v.txPend = t.txPend ∧
        t.hist = s.hist ++ es ∧ v.hist = u.hist ++ es

/-- R145: the symmetry of a frame and its reply. -/
def Obligations.ReplySymmetry : Prop :=
  ∀ f : Frame, 14 ≤ f.length →
    be48 (replyFn f) 0 = be48 f 6 ∧ be48 (replyFn f) 6 = be48 f 0 ∧ (replyFn f).drop 12 = f.drop 12 ∧
    (∃ p q, decodeFn f = .parsed p ∧ decodeFn (replyFn f) = .parsed q ∧ q.tagged = p.tagged ∧ q.tci = p.tci ∧
      q.etype = p.etype ∧ q.poff = p.poff ∧ q.plen = p.plen) ∧
    (∀ F, filterFn (replyFn f) F = filterFn f F) ∧ replyFn (replyFn f) = f

/-- R223, R145: a second SWAP restores the frame, and every byte of the buffer. -/
def Obligations.SwapTwiceRestoresTheFrame : Prop :=
  ∀ (s : State) (b : Frame), s.engine = .idle → HoldsFrame s b → 14 ≤ b.length →
    ∃ t u, exec .swap s = .next t ∧ exec .swap t = .next u ∧ HoldsFrame t (replyFn b) ∧ HoldsFrame u b ∧
      ∀ a, Memory.read u.frameBuf a = Memory.read s.frameBuf a

/-- R147: a reply looped back passes the filter again, and the reply to it is the original frame. -/
def Obligations.LoopedBackReplyIsEchoed : Prop :=
  ∀ (s : State) (f : Frame) (rest : List Input), s.inputs = .deliver (replyFn f) :: rest → s.engine = .listen →
    f.length ≤ Config.bufCap → effectiveEtype f = some s.filterEtype →
    step s = .next { s with
      inputs := rest, hist := s.hist ++ [.rx (replyFn f), .tx f], txPend := some f, engine := .txWait }

/-- R146, R130: no address, VLAN id or payload takes part in the responder's filter. -/
def Obligations.FilterReadsTheEtypeAlone : Prop :=
  ∀ (f g : Frame) (F : Half), g.length = f.length → be16 g 12 = be16 f 12 →
    (18 ≤ f.length → be16 f 12 = 0x8100#16 → be16 g 16 = be16 f 16) → filterFn g F = filterFn f F

/-- The model's reading of events that have no step of the ENGINE (log entries 5 and 6): a delivery outside `LISTEN`, an
answer outside `TX_WAIT`, and no event at all. -/
def Obligations.EventsThatAreNotEnabled : Prop :=
  ∀ (s : State) (rest : List Input),
    (∀ f, s.inputs = .deliver f :: rest → s.engine ≠ .listen → step s = .next { s with inputs := rest }) ∧
    (∀ a, s.inputs = .answer a :: rest → s.engine ≠ .txWait → step s = .next { s with inputs := rest }) ∧
    (s.inputs = [] → step s = .next s)

/-- R149 as the model takes it (log entry 7): in `LISTEN` a delivery longer than `BUF_CAP` stops the machine by name. -/
def Obligations.OversizeDeliveryStops : Prop :=
  ∀ (s : State) (f : Frame) (rest : List Input), s.inputs = .deliver f :: rest → s.engine = .listen →
    Config.bufCap < f.length → step s = .fault (.deliveryOverCapacity f.length)

/-! ## The reply-qualification filter (42_probe_filter.md) -/

/-- R172: QUALIFY.AE writes `STATUS` alone. -/
def Obligations.QualifyAeFollowsItsRule : Prop :=
  decodeWord 0x00000005#32 = .ok .qualifyAe ∧
  ∀ s : State, RefusedOutsideIdle .qualifyAe s ∧ FaultsOnUnwritten .qualifyAe s ∧
    ∀ b es ed ee, s.engine = .idle → HoldsFrame s b → s.opSrc = some es → s.opDst = some ed → s.opEtype = some ee →
      (14 ≤ b.length ∧ be48 b 6 = es ∧ be48 b 0 = ed ∧ effectiveEtype b = some ee →
        exec .qualifyAe s = .next { s with status := .matched }) ∧
      (¬(14 ≤ b.length ∧ be48 b 6 = es ∧ be48 b 0 = ed ∧ effectiveEtype b = some ee) →
        exec .qualifyAe s = .next { s with status := .nonqual })

/-- R174: QUALIFY.AEP writes `STATUS` alone; the payload decides only for a frame that qualifies. -/
def Obligations.QualifyAepFollowsItsRule : Prop :=
  decodeWord 0x00000105#32 = .ok .qualifyAep ∧
  ∀ s : State, RefusedOutsideIdle .qualifyAep s ∧ FaultsOnUnwritten .qualifyAep s ∧
    ∀ b es ed ee ep, s.engine = .idle → HoldsFrame s b → s.opSrc = some es → s.opDst = some ed → s.opEtype = some ee →
      HoldsPayload s ep →
      (14 ≤ b.length ∧ be48 b 6 = es ∧ be48 b 0 = ed ∧ effectiveEtype b = some ee →
        (framePayload b = some ep → exec .qualifyAep s = .next { s with status := .matched }) ∧
        (framePayload b ≠ some ep → exec .qualifyAep s = .next { s with status := .mismatched })) ∧
      (¬(14 ≤ b.length ∧ be48 b 6 = es ∧ be48 b 0 = ed ∧ effectiveEtype b = some ee) →
        exec .qualifyAep s = .next { s with status := .nonqual })

/-- R176: QUALIFY.A compares the two addresses alone and writes `STATUS` alone. -/
def Obligations.QualifyAFollowsItsRule : Prop :=
  decodeWord 0x00000205#32 = .ok .qualifyA ∧
  ∀ s : State, RefusedOutsideIdle .qualifyA s ∧ FaultsOnUnwritten .qualifyA s ∧
    ∀ b es ed, s.engine = .idle → HoldsFrame s b → s.opSrc = some es → s.opDst = some ed →
      (14 ≤ b.length ∧ be48 b 6 = es ∧ be48 b 0 = ed → exec .qualifyA s = .next { s with status := .matched }) ∧
      (¬(14 ≤ b.length ∧ be48 b 6 = es ∧ be48 b 0 = ed) → exec .qualifyA s = .next { s with status := .nonqual })

/-- R178: any one mismatch disqualifies, and nothing else does. -/
def Obligations.AnyMismatchDisqualifies : Prop :=
  ∀ (b : Frame) (es ed : Addr) (ee : Half) (ep : Frame) (p : Parsed), decodeFn b = .parsed p →
    (qualifyFn b es ed ee ep .ae = .nonQual ↔ p.src ≠ es ∨ p.dst ≠ ed ∨ p.etype ≠ ee) ∧
    (qualifyFn b es ed ee ep .aep = .nonQual ↔ p.src ≠ es ∨ p.dst ≠ ed ∨ p.etype ≠ ee) ∧
    (qualifyFn b es ed ee ep .a = .nonQual ↔ p.src ≠ es ∨ p.dst ≠ ed)

/-- R171: payload equality is equality of byte sequences, lengths included. -/
def Obligations.PayloadEqualityIsExact : Prop :=
  ∀ (b : Frame) (es ed : Addr) (ee : Half) (ep : Frame) (p : Parsed), decodeFn b = .parsed p →
    qualifyFn b es ed ee ep .aep ≠ .nonQual →
    (qualifyFn b es ed ee ep .aep = .matched ↔
      p.plen = ep.length ∧ ∀ k, k < p.plen → byteAt b (p.poff + k) = byteAt ep k) ∧
    (p.plen ≠ ep.length → qualifyFn b es ed ee ep .aep = .mismatched)

/-- R180: the VLAN id, the priority bits and the tag take no part in qualification. -/
def Obligations.TagTakesNoPartInQualification : Prop :=
  ∀ (b c : Frame) (es ed : Addr) (ee : Half) (ep : Frame), 14 ≤ b.length → 14 ≤ c.length →
    be48 b 0 = be48 c 0 → be48 b 6 = be48 c 6 →
    qualifyFn b es ed ee ep .a = qualifyFn c es ed ee ep .a ∧
    (effectiveEtype b = effectiveEtype c →
      qualifyFn b es ed ee ep .ae = qualifyFn c es ed ee ep .ae ∧
      (framePayload b = framePayload c → qualifyFn b es ed ee ep .aep = qualifyFn c es ed ee ep .aep))

/-! ## The host port (10_state.md) -/

/-- R25: `HWR(r, v)`, its refusals in their order, the issue of a command, and the write of a register. Nothing but a
write of `CMD` starts a command: no other step but reset changes `STATUS`. -/
def Obligations.HostRegisterWrite : Prop :=
  (∀ s t : State, step s = .next t → t.status ≠ s.status → NextIsReset s ∨ ∃ i, IssuesCommand s i) ∧
  ∀ (s : State) (r v : Nat) (rest : List Input), s.inputs = .host (.hwr r v) :: rest →
    (0x12 ≤ r → step s = .next (recordRefusal (.noSuchRegister r) { s with inputs := rest })) ∧
    ∀ n, regIndex n = r →
      (regAccess n = .readOnly → step s = .next (recordRefusal (.writeToReadOnly n) { s with inputs := rest })) ∧
      (regAccess n ≠ .readOnly → 2 ^ regWidth n ≤ v →
        step s = .next (recordRefusal (.valueTooWide (.reg n) v) { s with inputs := rest })) ∧
      (regAccess n ≠ .readOnly → v < 2 ^ regWidth n → n = .opLen ∨ n = .frameLen → Config.bufCap < v →
        step s = .next (recordRefusal (.lengthOverCapacity n v) { s with inputs := rest })) ∧
      (n = .cmd → v < 2 ^ regWidth n → step s = issueCommand (BitVec.ofNat 32 v) { s with inputs := rest }) ∧
      (regAccess n = .readWrite → v < 2 ^ regWidth n → ¬((n = .opLen ∨ n = .frameLen) ∧ Config.bufCap < v) →
        ∃ t, step s = .next t ∧ regRead t n = some v ∧ (∀ m, m ≠ n → regRead t m = regRead s m) ∧
          t.frameBuf = s.frameBuf ∧ t.opBuf = s.opBuf ∧ t.txPend = s.txPend ∧ t.hist = s.hist ∧
          SameMarks { s with inputs := rest } t)

/-- R26: `HRD(r)` returns the register to HOST and changes nothing else. -/
def Obligations.HostRegisterRead : Prop :=
  ∀ (s : State) (r : Nat) (rest : List Input), s.inputs = .host (.hrd r) :: rest →
    (0x12 ≤ r → step s = .next (recordRefusal (.noSuchRegister r) { s with inputs := rest })) ∧
    (r = 0x00 → step s = .next (recordRefusal (.readOfWriteOnly .cmd) { s with inputs := rest })) ∧
    ∀ n, regIndex n = r → n ≠ .cmd →
      (regRead s n = none → step s = .next (recordFault (.reg n) { s with inputs := rest })) ∧
      (∀ v, regRead s n = some v → step s = .next { s with inputs := rest, hostReads := s.hostReads ++ [v] })

/-- R27: `HWB(B, i, v)` writes one byte and nothing else. -/
def Obligations.HostBufferWrite : Prop :=
  ∀ (s : State) (b : Buf) (i v : Nat) (rest : List Input), s.inputs = .host (.hwb b i v) :: rest →
    (Config.bufCap ≤ i → step s = .next (recordRefusal (.indexOverCapacity b i) { s with inputs := rest })) ∧
    (i < Config.bufCap → 0xFF < v → step s = .next (recordRefusal (.valueTooWide (.buf b) v) { s with inputs := rest })) ∧
    (i < Config.bufCap → v ≤ 0xFF → ∃ t, step s = .next t ∧
      Memory.read (bufOf b t) i = some (BitVec.ofNat 8 v) ∧
      (∀ c a, ¬(c = b ∧ a = i) → Memory.read (bufOf c t) a = Memory.read (bufOf c s) a) ∧
      t = { s with inputs := rest, frameBuf := t.frameBuf, opBuf := t.opBuf })

/-- R28: `HRB(B, i)` returns one byte to HOST and changes nothing else. -/
def Obligations.HostBufferRead : Prop :=
  ∀ (s : State) (b : Buf) (i : Nat) (rest : List Input), s.inputs = .host (.hrb b i) :: rest →
    (Config.bufCap ≤ i → step s = .next (recordRefusal (.indexOverCapacity b i) { s with inputs := rest })) ∧
    (i < Config.bufCap → Memory.read (bufOf b s) i = none →
      step s = .next (recordFault (.byte b i) { s with inputs := rest })) ∧
    (∀ v, i < Config.bufCap → Memory.read (bufOf b s) i = some v →
      step s = .next { s with inputs := rest, hostReads := s.hostReads ++ [v.toNat] })

/-- R60: a HOST read that follows a HOST write returns the written value. -/
def Obligations.HostReadsWhatHostWrote : Prop :=
  (∀ (s : State) (n : RegName) (v : Nat) (rest : List Input), regAccess n = .readWrite → v < 2 ^ regWidth n →
    (isLengthReg n = true → v ≤ Config.bufCap) →
    s.inputs = .host (.hwr (regIndex n) v) :: .host (.hrd (regIndex n)) :: rest →
    ∃ t u, step s = .next t ∧ step t = .next u ∧ u.hostReads = s.hostReads ++ [v] ∧ u.inputs = rest) ∧
  ∀ (s : State) (b : Buf) (i v : Nat) (rest : List Input), i < Config.bufCap → v ≤ 0xFF →
    s.inputs = .host (.hwb b i v) :: .host (.hrb b i) :: rest →
    ∃ t u, step s = .next t ∧ step t = .next u ∧ u.hostReads = s.hostReads ++ [v] ∧ u.inputs = rest

/-- R22, R23: what HOST reads of `STATE` and of `STATUS`. -/
def Obligations.StateAndStatusReadAsTheirCodes : Prop :=
  ∀ (s : State) (rest : List Input),
    (s.inputs = .host (.hrd 0x02) :: rest →
      ∃ t v, step s = .next t ∧ t.hostReads = s.hostReads ++ [v] ∧
        (s.engine, v) ∈ [(EngineState.idle, 0), (.listen, 1), (.txWait, 2), (.terminated, 3)]) ∧
    (s.inputs = .host (.hrd 0x01) :: rest →
      ∃ t v, step s = .next t ∧ t.hostReads = s.hostReads ++ [v] ∧
        (s.status, v) ∈ [(StatusCode.noneYet, 0x0), (.ok, 0x1), (.reject, 0x2), (.invalidVlanId, 0x3), (.pass, 0x4),
          (.skip, 0x5), (.matched, 0x6), (.mismatched, 0x7), (.nonqual, 0x8)])

/-- R87: the three pseudo-instructions are their expansions, which stop at the first refusal; `LDFRAME` of bytes that fit
loads the frame, and of too many it stops at its first statement. The model's choices: an expansion runs one statement a
step, and what is left of it stands first among the events to come (log entry 12); `LDFRAME` of no bytes loads the length 0
(log entry 16). -/
def Obligations.PseudoInstructionsExpand : Prop :=
  (∀ bs, stmtInput (.ldFrame bs) = .pseudo (.hwr 0x09 bs.length :: bs.zipIdx.map fun p => .hwb .frame p.2 p.1)) ∧
  (∀ bs, stmtInput (.ldPay bs) = .pseudo (.hwr 0x08 bs.length :: bs.zipIdx.map fun p => .hwb .op p.2 p.1)) ∧
  (∀ d sr e, stmtInput (.ldHdr d sr e) = .pseudo [.hwr 0x04 d, .hwr 0x05 sr, .hwr 0x06 e]) ∧
  (∀ (s : State) (op : HostOp) (more : List HostOp) (rest : List Input), s.inputs = .pseudo (op :: more) :: rest →
    ∃ t, step { s with inputs := .host op :: rest } = .next t ∧
      (t.refusals ≠ s.refusals → step s = .next t) ∧
      (t.refusals = s.refusals → more = [] → step s = .next t) ∧
      (t.refusals = s.refusals → more ≠ [] → step s = .next { t with inputs := .pseudo more :: rest })) ∧
  ∀ (s : State) (bs : List Nat) (rest : List Input), s.inputs = stmtInput (.ldFrame bs) :: rest →
    (Config.bufCap < bs.length → ∃ m, step s = .next (recordRefusal m { s with inputs := rest })) ∧
    (bs.length ≤ Config.bufCap → (∀ v ∈ bs, v ≤ 0xFF) →
      ∃ t, Host.Core.run Sys2Proof.core (bs.length + 1) s = .next t ∧ t.inputs = rest ∧
        HoldsFrame t (bs.map (BitVec.ofNat 8)) ∧ t.faults = s.faults ∧ t.refusals = s.refusals)

/-! ## Reset, the marks and the whole machine -/

/-- R210: what reset sets, what it appends, and what it never clears. -/
def Obligations.ResetStep : Prop :=
  (∀ (s : State) (rest : List Input), s.inputs = .reset :: rest → ∃ t, step s = .next t ∧
    t.engine = .idle ∧ t.status = .noneYet ∧ t.filterEtype = 0x88B5#16 ∧
    t.opDst = none ∧ t.opSrc = none ∧ t.opEtype = none ∧ t.opVlan = none ∧ t.opLen = none ∧ t.frameLen = none ∧
    t.resDst = none ∧ t.resSrc = none ∧ t.resEtype = none ∧ t.resTagged = none ∧ t.resTci = none ∧ t.resVid = none ∧
    t.resPoff = none ∧ t.resPlen = none ∧ (∀ b a, Memory.read (bufOf b t) a = none) ∧ t.txPend = none ∧
    t.hist = s.hist ++ [.reset] ∧ t.faults = s.faults ∧ t.refused = s.refused) ∧
  State.reset.engine = .idle ∧ State.reset.status = .noneYet ∧ State.reset.filterEtype = 0x88B5#16 ∧
  (∀ n, n ≠ .status → n ≠ .state → n ≠ .filterEtype → regRead State.reset n = none) ∧
  (∀ b a, Memory.read (bufOf b State.reset) a = none) ∧ State.reset.txPend = none ∧
  State.reset.hist = [.reset] ∧ State.reset.faults = [] ∧ State.reset.refused = false

/-- The history (R29) and the faults (R39) only grow, and `REFUSED` is never cleared (R39). The clause about the list of
refusals is about the model's own field, which no step clears, reset included (log entries 2 and 18). -/
def Obligations.RecordsOnlyGrow : Prop :=
  ∀ s t : State, step s = .next t →
    (∃ es, t.hist = s.hist ++ es) ∧ (∃ fs, t.faults = s.faults ++ fs) ∧ (∃ ms, t.refusals = s.refusals ++ ms) ∧
    (s.refused = true → t.refused = true)

/-- R39: a step that faults or is refused changes no state of L2FE but the mark; any refusal sets `REFUSED`; neither mark
is ever cleared, reset included. -/
def Obligations.MarkedStepsChangeNothingElse : Prop :=
  ∀ s t : State, step s = .next t →
    (∃ fs, t.faults = s.faults ++ fs) ∧ (s.refused = true → t.refused = true) ∧
    (t.refusals ≠ s.refusals → t.refused = true) ∧ (t.refused ≠ s.refused → t.refusals ≠ s.refusals) ∧
    (t.faults ≠ s.faults ∨ t.refusals ≠ s.refusals →
      t = { s with inputs := t.inputs, faults := t.faults, refused := t.refused, refusals := t.refusals })

/-- R30: `TX_PEND` is non-empty exactly in `TX_WAIT`; every step keeps it so, and reset makes it so. -/
def Obligations.PendingExactlyInTxWait : Prop :=
  PendingOk State.reset ∧ State.reset.txPend = none ∧ ∀ s t : State, PendingOk s → step s = .next t → PendingOk t

/-- Every step keeps the buffers below `BUF_CAP` (R34) and both lengths at most `BUF_CAP` (R56). The clause that it keeps the
buffers in canonical form, indices strictly rising, is about the model's own choice of form (log entry 10). -/
def Obligations.BuffersAndLengthsKept : Prop :=
  ∀ s t : State, BuffersOk s → LengthsOk s → step s = .next t → BuffersOk t ∧ LengthsOk t

/-- R33, R104: every step keeps the result registers those of one frame, `RES_VID` = `RES_TCI[11:0]`, `RES_POFF` 14 or
18. -/
def Obligations.ResultRegistersConsistent : Prop :=
  ∀ s t : State, ResultsOk s → step s = .next t → ResultsOk t

/-- R62: every step keeps the history in the responder's order, a reply directly after the frame it answers, an answer
only for the pending reply, and what is pending equal to `TX_PEND`. -/
def Obligations.HistoryKeepsResponderOrder : Prop :=
  ∀ s t : State, PendingOk s → HistoryOk s → step s = .next t → HistoryOk t

/-- The invariants hold at reset, together, and `REFUSED` stays the mark of a recorded refusal. -/
def Obligations.InvariantsAtReset : Prop :=
  Inv State.reset ∧ Clean State.reset ∧ ∀ s t : State, RefusedOk s → step s = .next t → RefusedOk t

/-- R31: `FILTER_ETYPE` changes only by SETFILTER in `IDLE`, to `OP_ETYPE`, or by reset; HOST may not write it. -/
def Obligations.FilterFixedOnceStarted : Prop :=
  State.reset.filterEtype = 0x88B5#16 ∧
  (∀ s t : State, step s = .next t → t.filterEtype ≠ s.filterEtype →
    NextIsReset s ∨ (s.engine = .idle ∧ IssuesCommand s .setfilter ∧ s.opEtype = some t.filterEtype)) ∧
  ∀ (s : State) (v : Nat) (rest : List Input), s.inputs = .host (.hwr 0x03 v) :: rest →
    step s = .next (recordRefusal (.writeToReadOnly .filterEtype) { s with inputs := rest })

/-- R22: the only changes of `STATE`; `TERMINATED` is left only by reset. -/
def Obligations.EngineStateTransitions : Prop :=
  ∀ s t : State, step s = .next t → t.engine ≠ s.engine →
    (NextIsReset s ∧ t.engine = .idle) ∨
    (s.engine = .idle ∧ t.engine = .listen ∧ IssuesCommand s .start) ∨
    (s.engine ≠ .terminated ∧ t.engine = .terminated ∧ IssuesCommand s .stop) ∨
    (s.engine = .listen ∧ t.engine = .txWait ∧ ∃ f rest, s.inputs = .deliver f :: rest ∧ t.txPend = some (replyFn f)) ∨
    (s.engine = .txWait ∧ t.engine = .listen ∧ ∃ a rest, s.inputs = .answer a :: rest)

/-- R221: the result registers change only at DECODE, in `IDLE`, or by reset. -/
def Obligations.ResultsChangeOnlyAtDecode : Prop :=
  ∀ s t : State, step s = .next t → ¬SameResults s t → NextIsReset s ∨ (s.engine = .idle ∧ IssuesCommand s .decode)

/-- R23, R226: `STATUS` changes only by a command that is neither refused nor faults, or by reset; after a command that
completes it holds one of that command's codes. -/
def Obligations.StatusWrittenOnlyByCommands : Prop :=
  (∀ s t : State, step s = .next t → t.status ≠ s.status →
    NextIsReset s ∨ ∃ i, IssuesCommand s i ∧ AllowedIn i s.engine ∧ t.faults = s.faults ∧ t.refusals = s.refusals) ∧
  ∀ (i : Instr) (s t : State), exec i s = .next t → SameMarks s t →
    t.status ∈ (match i with
      | .encode => [StatusCode.ok]
      | .encodeV => [.ok, .invalidVlanId]
      | .decode => [.ok, .reject]
      | .filter => [.reject, .pass, .skip]
      | .swap => [.ok, .reject]
      | .qualifyAe => [.matched, .nonqual]
      | .qualifyAep => [.matched, .mismatched, .nonqual]
      | .qualifyA => [.matched, .nonqual]
      | .setfilter => [.ok]
      | .start => [.ok]
      | .stop => [.ok])

/-- R56: what a command does to `STATUS`, the result registers, `FRAME_LEN` and the marks does not depend on any byte of
`FRAME_BUF` at or above `FRAME_LEN` or of `OP_BUF` at or above `OP_LEN`. -/
def Obligations.BytesAboveTheLengthNotRead : Prop :=
  ∀ (i : Instr) (s : State) (fb ob : Memory),
    (∀ n a, s.frameLen = some n → a < n.toNat → Memory.read fb a = Memory.read s.frameBuf a) →
    (∀ n a, s.opLen = some n → a < n.toNat → Memory.read ob a = Memory.read s.opBuf a) →
    ∃ t u, exec i s = .next t ∧ exec i { s with frameBuf := fb, opBuf := ob } = .next u ∧
      u = { t with frameBuf := u.frameBuf, opBuf := u.opBuf } ∧
      (∀ n a, t.frameLen = some n → a < n.toNat → Memory.read u.frameBuf a = Memory.read t.frameBuf a) ∧
      (∀ a, Memory.read u.opBuf a = Memory.read ob a)
end

