-- ==== Sys2Proof/Laws/Config.lean ====
section
/-! SUPPORT. The bounds of `BUF_CAP` (00_scope.md R7). -/

namespace Sys2Proof.Config

@[simp] theorem hdrUntagged_eq : hdrUntagged = 14 := rfl

@[simp] theorem hdrTagged_eq : hdrTagged = 18 := rfl

@[simp] theorem maxVlanId_eq : maxVlanId = 4095 := rfl

theorem bufCap_ge : 18 ≤ bufCap := Nat.le_add_right 18 _

theorem bufCap_le : bufCap ≤ 65535 := by
  have := bufCapSlack.isLt
  unfold bufCap
  omega

/-- A length within `BUF_CAP` fits a 16-bit length register. -/
theorem toNat_length {n : Nat} (h : n ≤ bufCap) : (BitVec.ofNat 16 n).toNat = n := by
  have := bufCap_le
  rw [BitVec.toNat_ofNat]
  exact Nat.mod_eq_of_lt (by omega)

end Sys2Proof.Config
end

