-- ==== Sys2Proof/Laws/Memory.lean ====
section
/-! SUPPORT. The laws of a buffer: a read after a write, reads and writes of many bytes, and the canonical form. -/

namespace Sys2Proof.Machine

@[simp] theorem Memory.read_nil (a : Nat) : Memory.read [] a = none := rfl

theorem Memory.read_write_same (m : Memory) (a : Nat) (v : Byte) : Memory.read (Memory.write m a v) a = some v := by
  induction m with
  | nil => simp [Memory.write, Memory.read]
  | cons c m ih =>
    obtain ⟨k, w⟩ := c
    simp only [Memory.write]
    split_ifs with h1 h2
    · simp [Memory.read]
    · simp [Memory.read]
    · simp [Memory.read, Ne.symm h2, ih]

theorem Memory.read_write_other (m : Memory) {a b : Nat} (v : Byte) (h : b ≠ a) :
    Memory.read (Memory.write m a v) b = Memory.read m b := by
  induction m with
  | nil => simp [Memory.write, Memory.read, Ne.symm h]
  | cons c m ih =>
    obtain ⟨k, w⟩ := c
    simp only [Memory.write]
    split_ifs with h1 h2
    · simp [Memory.read, Ne.symm h]
    · subst h2; simp [Memory.read, Ne.symm h]
    · simp [Memory.read, ih]

/-- What a buffer reads as after a write of many bytes. -/
theorem Memory.read_writeBytes (f : Frame) (m : Memory) (off a : Nat) :
    Memory.read (Memory.writeBytes m off f) a =
      if off ≤ a ∧ a < off + f.length then f[a - off]? else Memory.read m a := by
  induction f generalizing m off with
  | nil => simp [Memory.writeBytes]
  | cons v vs ih =>
    rw [Memory.writeBytes, ih]
    by_cases h : a = off
    · subst h; simp [Memory.read_write_same]
    · by_cases h2 : off + 1 ≤ a ∧ a < off + 1 + vs.length
      · have h3 : off ≤ a ∧ a < off + (v :: vs).length := by simp; omega
        have h4 : a - off = (a - (off + 1)) + 1 := by omega
        rw [if_pos h2, if_pos h3, h4, List.getElem?_cons_succ]
      · have h3 : ¬(off ≤ a ∧ a < off + (v :: vs).length) := by simp; omega
        rw [if_neg h2, if_neg h3, Memory.read_write_other _ _ h]

theorem Memory.read_writeBytes_of_length_le (f : Frame) (m : Memory) {a : Nat} (h : f.length ≤ a) :
    Memory.read (Memory.writeBytes m 0 f) a = Memory.read m a := by
  rw [Memory.read_writeBytes, if_neg (by omega)]

theorem Memory.read_writeBytes_of_lt (f : Frame) (m : Memory) {a : Nat} (h : a < f.length) :
    Memory.read (Memory.writeBytes m 0 f) a = f[a]? := by
  rw [Memory.read_writeBytes, if_pos (by omega), Nat.sub_zero]

/-- A read of many bytes succeeds exactly when each is written, and gives them in order. -/
theorem Memory.readBytes_eq_ok_iff (m : Memory) (off n : Nat) (f : Frame) :
    Memory.readBytes m off n = .ok f ↔ f.length = n ∧ ∀ i, i < n → Memory.read m (off + i) = f[i]? := by
  induction n generalizing off f with
  | zero =>
    simp only [Memory.readBytes, Except.ok.injEq]
    constructor
    · rintro rfl; simp
    · rintro ⟨h, -⟩; exact (List.length_eq_zero_iff.mp h).symm
  | succ n ih =>
    simp only [Memory.readBytes]
    cases hr : Memory.read m off with
    | none =>
      simp only [reduceCtorEq, false_iff, not_and, not_forall]
      intro hl
      refine ⟨0, by omega, ?_⟩
      rw [Nat.add_zero, hr]
      cases f with
      | nil => simp at hl
      | cons b bs => simp
    | some v =>
      cases hrest : Memory.readBytes m (off + 1) n with
      | error e =>
        simp only [reduceCtorEq, false_iff, not_and]
        intro hl hall
        have h2 := (ih (off + 1) f.tail).mpr ⟨by simp [hl], fun i hi => by
          have := hall (i + 1) (by omega)
          rw [show off + 1 + i = off + (i + 1) by omega, this]
          cases f <;> simp⟩
        rw [hrest] at h2
        cases h2
      | ok vs =>
        have h2 := (ih (off + 1) vs).mp hrest
        simp only [Except.ok.injEq]
        constructor
        · rintro rfl
          refine ⟨by simp [h2.1], fun i hi => ?_⟩
          cases i with
          | zero => simpa using hr
          | succ j =>
            rw [List.getElem?_cons_succ, ← h2.2 j (by omega)]
            congr 1
            omega
        · rintro ⟨hl, hall⟩
          cases f with
          | nil => simp at hl
          | cons b bs =>
            have h0 := hall 0 (by omega)
            simp only [Nat.add_zero, hr, List.getElem?_cons_zero, Option.some.injEq] at h0
            have h3 := (ih (off + 1) bs).mpr ⟨by simpa using hl, fun i hi => by
              have := hall (i + 1) (by omega)
              rw [show off + 1 + i = off + (i + 1) by omega, this, List.getElem?_cons_succ]⟩
            rw [hrest] at h3
            cases h3
            rw [h0]

/-- A read of many bytes that does not succeed names the least unwritten index. -/
theorem Memory.readBytes_error (m : Memory) (off n k : Nat) (h : Memory.readBytes m off n = .error k) :
    off ≤ k ∧ k < off + n ∧ Memory.read m k = none := by
  induction n generalizing off with
  | zero => simp [Memory.readBytes] at h
  | succ n ih =>
    simp only [Memory.readBytes] at h
    cases hr : Memory.read m off with
    | none =>
      rw [hr] at h
      cases h
      exact ⟨le_refl _, by omega, hr⟩
    | some v =>
      rw [hr] at h
      cases hrest : Memory.readBytes m (off + 1) n with
      | error e =>
        rw [hrest] at h
        cases h
        obtain ⟨h1, h2, h3⟩ := ih (off + 1) hrest
        exact ⟨by omega, by omega, h3⟩
      | ok vs => rw [hrest] at h; cases h

theorem Memory.readBytes_length {m : Memory} {off n : Nat} {f : Frame} (h : Memory.readBytes m off n = .ok f) :
    f.length = n := ((Memory.readBytes_eq_ok_iff m off n f).mp h).1

/-- The indices listed after a write: those listed before, and the one written. -/
theorem Memory.mem_write_index {m : Memory} {a : Nat} {v : Byte} {c : Host.Cell} (h : c ∈ Memory.write m a v) :
    c.1 = a ∨ c ∈ m := by
  induction m with
  | nil => simp [Memory.write] at h; simp [h]
  | cons d m ih =>
    obtain ⟨k, w⟩ := d
    simp only [Memory.write] at h
    split_ifs at h with h1 h2
    · rcases List.mem_cons.mp h with rfl | h
      · exact .inl rfl
      · exact .inr h
    · rcases List.mem_cons.mp h with rfl | h
      · exact .inl rfl
      · exact .inr (List.mem_cons_of_mem _ h)
    · rcases List.mem_cons.mp h with rfl | h
      · exact .inr List.mem_cons_self
      · exact (ih h).imp_right (List.mem_cons_of_mem _)

/-- A write keeps the canonical form. -/
theorem Memory.write_wf {m : Memory} (a : Nat) (v : Byte) (h : Memory.wf m) : Memory.wf (Memory.write m a v) := by
  induction m with
  | nil => simp [Memory.write, Memory.wf]
  | cons c m ih =>
    obtain ⟨k, w⟩ := c
    rw [Memory.wf, List.map_cons, List.pairwise_cons] at h
    have hall : ∀ d ∈ m, k < d.1 := fun d hd => h.1 _ (List.mem_map_of_mem hd)
    simp only [Memory.write]
    split_ifs with h1 h2
    · simp only [Memory.wf, List.map_cons, List.pairwise_cons, List.mem_cons, List.mem_map]
      refine ⟨?_, ?_, h.2⟩
      · rintro x (rfl | ⟨d, hd, rfl⟩)
        · exact h1
        · exact h1.trans (hall d hd)
      · rintro x ⟨d, hd, rfl⟩
        exact hall d hd
    · subst h2
      simp only [Memory.wf, List.map_cons, List.pairwise_cons]
      exact h
    · simp only [Memory.wf, List.map_cons, List.pairwise_cons, List.mem_map]
      refine ⟨?_, ih h.2⟩
      rintro x ⟨d, hd, rfl⟩
      rcases Memory.mem_write_index hd with h3 | h3
      · rw [h3]; omega
      · exact hall d h3

theorem Memory.writeBytes_wf (f : Frame) {m : Memory} (off : Nat) (h : Memory.wf m) :
    Memory.wf (Memory.writeBytes m off f) := by
  induction f generalizing m off with
  | nil => exact h
  | cons v vs ih => exact ih _ (Memory.write_wf _ _ h)

theorem Memory.write_within {cap : Nat} {m : Memory} {a : Nat} (v : Byte) (ha : a < cap) (h : Memory.within cap m) :
    Memory.within cap (Memory.write m a v) := by
  intro c hc
  rcases Memory.mem_write_index hc with h1 | h1
  · omega
  · exact h c h1

theorem Memory.writeBytes_within {cap : Nat} (f : Frame) {m : Memory} (off : Nat) (hf : off + f.length ≤ cap)
    (h : Memory.within cap m) : Memory.within cap (Memory.writeBytes m off f) := by
  induction f generalizing m off with
  | nil => exact h
  | cons v vs ih =>
    simp only [List.length_cons] at hf
    exact ih _ (by omega) (Memory.write_within v (by omega) h)

/-- An index that is not listed is unwritten. -/
theorem Memory.read_eq_none {m : Memory} {a : Nat} (h : ∀ c ∈ m, c.1 ≠ a) : Memory.read m a = none := by
  induction m with
  | nil => rfl
  | cons c m ih =>
    obtain ⟨k, w⟩ := c
    have hk : k ≠ a := h (k, w) List.mem_cons_self
    simp only [Memory.read, if_neg hk]
    exact ih fun d hd => h d (List.mem_cons_of_mem _ hd)

/-- Equal buffers are equal data: two buffers in canonical form that read the same everywhere are the same list. -/
theorem Memory.eq_of_read_eq {m m' : Memory} (h : Memory.wf m) (h' : Memory.wf m')
    (hr : ∀ a, Memory.read m a = Memory.read m' a) : m = m' := by
  induction m generalizing m' with
  | nil =>
    cases m' with
    | nil => rfl
    | cons c m' => have := hr c.1; simp [Memory.read] at this
  | cons c m ih =>
    cases m' with
    | nil => have := hr c.1; simp [Memory.read] at this
    | cons c' m' =>
      obtain ⟨k, v⟩ := c
      obtain ⟨k', v'⟩ := c'
      rw [Memory.wf, List.map_cons, List.pairwise_cons] at h h'
      have above : ∀ d ∈ m, k < d.1 := fun d hd => h.1 _ (List.mem_map_of_mem hd)
      have above' : ∀ d ∈ m', k' < d.1 := fun d hd => h'.1 _ (List.mem_map_of_mem hd)
      have hk : k = k' := by
        by_contra hne
        rcases Nat.lt_or_gt_of_ne hne with hlt | hlt
        · have h1 := hr k
          rw [Memory.read_eq_none (m := (k', v') :: m') (by
            intro d hd
            rcases List.mem_cons.mp hd with rfl | hd
            · exact Nat.ne_of_gt hlt
            · exact Nat.ne_of_gt (hlt.trans (above' d hd)))] at h1
          simp [Memory.read] at h1
        · have h1 := hr k'
          rw [Memory.read_eq_none (m := (k, v) :: m) (by
            intro d hd
            rcases List.mem_cons.mp hd with rfl | hd
            · exact Nat.ne_of_gt hlt
            · exact Nat.ne_of_gt (hlt.trans (above d hd)))] at h1
          simp [Memory.read] at h1
      subst hk
      have hv : v = v' := by simpa [Memory.read] using hr k
      subst hv
      congr 1
      refine ih h.2 h'.2 fun a => ?_
      by_cases ha : k = a
      · subst ha
        rw [Memory.read_eq_none fun d hd => Nat.ne_of_gt (above d hd),
          Memory.read_eq_none fun d hd => Nat.ne_of_gt (above' d hd)]
      · simpa [Memory.read, ha] using hr a

end Sys2Proof.Machine
end

