-- ==== Sys2Proof/Laws/State.lean ====
section
/-! SUPPORT. One lemma per field per update of the state, so that no later proof unfolds a record update. -/

namespace Sys2Proof.Machine

@[simp] theorem recordFault_status (n : CellName) (s : State) : (recordFault n s).status = s.status := rfl
@[simp] theorem recordFault_engine (n : CellName) (s : State) : (recordFault n s).engine = s.engine := rfl
@[simp] theorem recordFault_filterEtype (n : CellName) (s : State) : (recordFault n s).filterEtype = s.filterEtype := rfl
@[simp] theorem recordFault_opDst (n : CellName) (s : State) : (recordFault n s).opDst = s.opDst := rfl
@[simp] theorem recordFault_opSrc (n : CellName) (s : State) : (recordFault n s).opSrc = s.opSrc := rfl
@[simp] theorem recordFault_opEtype (n : CellName) (s : State) : (recordFault n s).opEtype = s.opEtype := rfl
@[simp] theorem recordFault_opVlan (n : CellName) (s : State) : (recordFault n s).opVlan = s.opVlan := rfl
@[simp] theorem recordFault_opLen (n : CellName) (s : State) : (recordFault n s).opLen = s.opLen := rfl
@[simp] theorem recordFault_frameLen (n : CellName) (s : State) : (recordFault n s).frameLen = s.frameLen := rfl
@[simp] theorem recordFault_resDst (n : CellName) (s : State) : (recordFault n s).resDst = s.resDst := rfl
@[simp] theorem recordFault_resSrc (n : CellName) (s : State) : (recordFault n s).resSrc = s.resSrc := rfl
@[simp] theorem recordFault_resEtype (n : CellName) (s : State) : (recordFault n s).resEtype = s.resEtype := rfl
@[simp] theorem recordFault_resTagged (n : CellName) (s : State) : (recordFault n s).resTagged = s.resTagged := rfl
@[simp] theorem recordFault_resTci (n : CellName) (s : State) : (recordFault n s).resTci = s.resTci := rfl
@[simp] theorem recordFault_resVid (n : CellName) (s : State) : (recordFault n s).resVid = s.resVid := rfl
@[simp] theorem recordFault_resPoff (n : CellName) (s : State) : (recordFault n s).resPoff = s.resPoff := rfl
@[simp] theorem recordFault_resPlen (n : CellName) (s : State) : (recordFault n s).resPlen = s.resPlen := rfl
@[simp] theorem recordFault_frameBuf (n : CellName) (s : State) : (recordFault n s).frameBuf = s.frameBuf := rfl
@[simp] theorem recordFault_opBuf (n : CellName) (s : State) : (recordFault n s).opBuf = s.opBuf := rfl
@[simp] theorem recordFault_txPend (n : CellName) (s : State) : (recordFault n s).txPend = s.txPend := rfl
@[simp] theorem recordFault_hist (n : CellName) (s : State) : (recordFault n s).hist = s.hist := rfl
@[simp] theorem recordFault_faults (n : CellName) (s : State) : (recordFault n s).faults = s.faults ++ [.unwrittenRead n] := rfl
@[simp] theorem recordFault_refused (n : CellName) (s : State) : (recordFault n s).refused = s.refused := rfl
@[simp] theorem recordFault_refusals (n : CellName) (s : State) : (recordFault n s).refusals = s.refusals := rfl
@[simp] theorem recordFault_hostReads (n : CellName) (s : State) : (recordFault n s).hostReads = s.hostReads := rfl
@[simp] theorem recordFault_inputs (n : CellName) (s : State) : (recordFault n s).inputs = s.inputs := rfl

@[simp] theorem recordRefusal_status (m : RefuseMark) (s : State) : (recordRefusal m s).status = s.status := rfl
@[simp] theorem recordRefusal_engine (m : RefuseMark) (s : State) : (recordRefusal m s).engine = s.engine := rfl
@[simp] theorem recordRefusal_filterEtype (m : RefuseMark) (s : State) : (recordRefusal m s).filterEtype = s.filterEtype := rfl
@[simp] theorem recordRefusal_opDst (m : RefuseMark) (s : State) : (recordRefusal m s).opDst = s.opDst := rfl
@[simp] theorem recordRefusal_opSrc (m : RefuseMark) (s : State) : (recordRefusal m s).opSrc = s.opSrc := rfl
@[simp] theorem recordRefusal_opEtype (m : RefuseMark) (s : State) : (recordRefusal m s).opEtype = s.opEtype := rfl
@[simp] theorem recordRefusal_opVlan (m : RefuseMark) (s : State) : (recordRefusal m s).opVlan = s.opVlan := rfl
@[simp] theorem recordRefusal_opLen (m : RefuseMark) (s : State) : (recordRefusal m s).opLen = s.opLen := rfl
@[simp] theorem recordRefusal_frameLen (m : RefuseMark) (s : State) : (recordRefusal m s).frameLen = s.frameLen := rfl
@[simp] theorem recordRefusal_resDst (m : RefuseMark) (s : State) : (recordRefusal m s).resDst = s.resDst := rfl
@[simp] theorem recordRefusal_resSrc (m : RefuseMark) (s : State) : (recordRefusal m s).resSrc = s.resSrc := rfl
@[simp] theorem recordRefusal_resEtype (m : RefuseMark) (s : State) : (recordRefusal m s).resEtype = s.resEtype := rfl
@[simp] theorem recordRefusal_resTagged (m : RefuseMark) (s : State) : (recordRefusal m s).resTagged = s.resTagged := rfl
@[simp] theorem recordRefusal_resTci (m : RefuseMark) (s : State) : (recordRefusal m s).resTci = s.resTci := rfl
@[simp] theorem recordRefusal_resVid (m : RefuseMark) (s : State) : (recordRefusal m s).resVid = s.resVid := rfl
@[simp] theorem recordRefusal_resPoff (m : RefuseMark) (s : State) : (recordRefusal m s).resPoff = s.resPoff := rfl
@[simp] theorem recordRefusal_resPlen (m : RefuseMark) (s : State) : (recordRefusal m s).resPlen = s.resPlen := rfl
@[simp] theorem recordRefusal_frameBuf (m : RefuseMark) (s : State) : (recordRefusal m s).frameBuf = s.frameBuf := rfl
@[simp] theorem recordRefusal_opBuf (m : RefuseMark) (s : State) : (recordRefusal m s).opBuf = s.opBuf := rfl
@[simp] theorem recordRefusal_txPend (m : RefuseMark) (s : State) : (recordRefusal m s).txPend = s.txPend := rfl
@[simp] theorem recordRefusal_hist (m : RefuseMark) (s : State) : (recordRefusal m s).hist = s.hist := rfl
@[simp] theorem recordRefusal_faults (m : RefuseMark) (s : State) : (recordRefusal m s).faults = s.faults := rfl
@[simp] theorem recordRefusal_refused (m : RefuseMark) (s : State) : (recordRefusal m s).refused = true := rfl
@[simp] theorem recordRefusal_refusals (m : RefuseMark) (s : State) : (recordRefusal m s).refusals = s.refusals ++ [m] := rfl
@[simp] theorem recordRefusal_hostReads (m : RefuseMark) (s : State) : (recordRefusal m s).hostReads = s.hostReads := rfl
@[simp] theorem recordRefusal_inputs (m : RefuseMark) (s : State) : (recordRefusal m s).inputs = s.inputs := rfl

@[simp] theorem emit_status (e : HistEvent) (s : State) : (emit e s).status = s.status := rfl
@[simp] theorem emit_engine (e : HistEvent) (s : State) : (emit e s).engine = s.engine := rfl
@[simp] theorem emit_filterEtype (e : HistEvent) (s : State) : (emit e s).filterEtype = s.filterEtype := rfl
@[simp] theorem emit_opDst (e : HistEvent) (s : State) : (emit e s).opDst = s.opDst := rfl
@[simp] theorem emit_opSrc (e : HistEvent) (s : State) : (emit e s).opSrc = s.opSrc := rfl
@[simp] theorem emit_opEtype (e : HistEvent) (s : State) : (emit e s).opEtype = s.opEtype := rfl
@[simp] theorem emit_opVlan (e : HistEvent) (s : State) : (emit e s).opVlan = s.opVlan := rfl
@[simp] theorem emit_opLen (e : HistEvent) (s : State) : (emit e s).opLen = s.opLen := rfl
@[simp] theorem emit_frameLen (e : HistEvent) (s : State) : (emit e s).frameLen = s.frameLen := rfl
@[simp] theorem emit_resDst (e : HistEvent) (s : State) : (emit e s).resDst = s.resDst := rfl
@[simp] theorem emit_resSrc (e : HistEvent) (s : State) : (emit e s).resSrc = s.resSrc := rfl
@[simp] theorem emit_resEtype (e : HistEvent) (s : State) : (emit e s).resEtype = s.resEtype := rfl
@[simp] theorem emit_resTagged (e : HistEvent) (s : State) : (emit e s).resTagged = s.resTagged := rfl
@[simp] theorem emit_resTci (e : HistEvent) (s : State) : (emit e s).resTci = s.resTci := rfl
@[simp] theorem emit_resVid (e : HistEvent) (s : State) : (emit e s).resVid = s.resVid := rfl
@[simp] theorem emit_resPoff (e : HistEvent) (s : State) : (emit e s).resPoff = s.resPoff := rfl
@[simp] theorem emit_resPlen (e : HistEvent) (s : State) : (emit e s).resPlen = s.resPlen := rfl
@[simp] theorem emit_frameBuf (e : HistEvent) (s : State) : (emit e s).frameBuf = s.frameBuf := rfl
@[simp] theorem emit_opBuf (e : HistEvent) (s : State) : (emit e s).opBuf = s.opBuf := rfl
@[simp] theorem emit_txPend (e : HistEvent) (s : State) : (emit e s).txPend = s.txPend := rfl
@[simp] theorem emit_hist (e : HistEvent) (s : State) : (emit e s).hist = s.hist ++ [e] := rfl
@[simp] theorem emit_faults (e : HistEvent) (s : State) : (emit e s).faults = s.faults := rfl
@[simp] theorem emit_refused (e : HistEvent) (s : State) : (emit e s).refused = s.refused := rfl
@[simp] theorem emit_refusals (e : HistEvent) (s : State) : (emit e s).refusals = s.refusals := rfl
@[simp] theorem emit_hostReads (e : HistEvent) (s : State) : (emit e s).hostReads = s.hostReads := rfl
@[simp] theorem emit_inputs (e : HistEvent) (s : State) : (emit e s).inputs = s.inputs := rfl

@[simp] theorem setStatus_status (c : StatusCode) (s : State) : (setStatus c s).status = c := rfl
@[simp] theorem setStatus_engine (c : StatusCode) (s : State) : (setStatus c s).engine = s.engine := rfl
@[simp] theorem setStatus_filterEtype (c : StatusCode) (s : State) : (setStatus c s).filterEtype = s.filterEtype := rfl
@[simp] theorem setStatus_opDst (c : StatusCode) (s : State) : (setStatus c s).opDst = s.opDst := rfl
@[simp] theorem setStatus_opSrc (c : StatusCode) (s : State) : (setStatus c s).opSrc = s.opSrc := rfl
@[simp] theorem setStatus_opEtype (c : StatusCode) (s : State) : (setStatus c s).opEtype = s.opEtype := rfl
@[simp] theorem setStatus_opVlan (c : StatusCode) (s : State) : (setStatus c s).opVlan = s.opVlan := rfl
@[simp] theorem setStatus_opLen (c : StatusCode) (s : State) : (setStatus c s).opLen = s.opLen := rfl
@[simp] theorem setStatus_frameLen (c : StatusCode) (s : State) : (setStatus c s).frameLen = s.frameLen := rfl
@[simp] theorem setStatus_resDst (c : StatusCode) (s : State) : (setStatus c s).resDst = s.resDst := rfl
@[simp] theorem setStatus_resSrc (c : StatusCode) (s : State) : (setStatus c s).resSrc = s.resSrc := rfl
@[simp] theorem setStatus_resEtype (c : StatusCode) (s : State) : (setStatus c s).resEtype = s.resEtype := rfl
@[simp] theorem setStatus_resTagged (c : StatusCode) (s : State) : (setStatus c s).resTagged = s.resTagged := rfl
@[simp] theorem setStatus_resTci (c : StatusCode) (s : State) : (setStatus c s).resTci = s.resTci := rfl
@[simp] theorem setStatus_resVid (c : StatusCode) (s : State) : (setStatus c s).resVid = s.resVid := rfl
@[simp] theorem setStatus_resPoff (c : StatusCode) (s : State) : (setStatus c s).resPoff = s.resPoff := rfl
@[simp] theorem setStatus_resPlen (c : StatusCode) (s : State) : (setStatus c s).resPlen = s.resPlen := rfl
@[simp] theorem setStatus_frameBuf (c : StatusCode) (s : State) : (setStatus c s).frameBuf = s.frameBuf := rfl
@[simp] theorem setStatus_opBuf (c : StatusCode) (s : State) : (setStatus c s).opBuf = s.opBuf := rfl
@[simp] theorem setStatus_txPend (c : StatusCode) (s : State) : (setStatus c s).txPend = s.txPend := rfl
@[simp] theorem setStatus_hist (c : StatusCode) (s : State) : (setStatus c s).hist = s.hist := rfl
@[simp] theorem setStatus_faults (c : StatusCode) (s : State) : (setStatus c s).faults = s.faults := rfl
@[simp] theorem setStatus_refused (c : StatusCode) (s : State) : (setStatus c s).refused = s.refused := rfl
@[simp] theorem setStatus_refusals (c : StatusCode) (s : State) : (setStatus c s).refusals = s.refusals := rfl
@[simp] theorem setStatus_hostReads (c : StatusCode) (s : State) : (setStatus c s).hostReads = s.hostReads := rfl
@[simp] theorem setStatus_inputs (c : StatusCode) (s : State) : (setStatus c s).inputs = s.inputs := rfl

@[simp] theorem giveHost_status (v : Nat) (s : State) : (giveHost v s).status = s.status := rfl
@[simp] theorem giveHost_engine (v : Nat) (s : State) : (giveHost v s).engine = s.engine := rfl
@[simp] theorem giveHost_filterEtype (v : Nat) (s : State) : (giveHost v s).filterEtype = s.filterEtype := rfl
@[simp] theorem giveHost_opDst (v : Nat) (s : State) : (giveHost v s).opDst = s.opDst := rfl
@[simp] theorem giveHost_opSrc (v : Nat) (s : State) : (giveHost v s).opSrc = s.opSrc := rfl
@[simp] theorem giveHost_opEtype (v : Nat) (s : State) : (giveHost v s).opEtype = s.opEtype := rfl
@[simp] theorem giveHost_opVlan (v : Nat) (s : State) : (giveHost v s).opVlan = s.opVlan := rfl
@[simp] theorem giveHost_opLen (v : Nat) (s : State) : (giveHost v s).opLen = s.opLen := rfl
@[simp] theorem giveHost_frameLen (v : Nat) (s : State) : (giveHost v s).frameLen = s.frameLen := rfl
@[simp] theorem giveHost_resDst (v : Nat) (s : State) : (giveHost v s).resDst = s.resDst := rfl
@[simp] theorem giveHost_resSrc (v : Nat) (s : State) : (giveHost v s).resSrc = s.resSrc := rfl
@[simp] theorem giveHost_resEtype (v : Nat) (s : State) : (giveHost v s).resEtype = s.resEtype := rfl
@[simp] theorem giveHost_resTagged (v : Nat) (s : State) : (giveHost v s).resTagged = s.resTagged := rfl
@[simp] theorem giveHost_resTci (v : Nat) (s : State) : (giveHost v s).resTci = s.resTci := rfl
@[simp] theorem giveHost_resVid (v : Nat) (s : State) : (giveHost v s).resVid = s.resVid := rfl
@[simp] theorem giveHost_resPoff (v : Nat) (s : State) : (giveHost v s).resPoff = s.resPoff := rfl
@[simp] theorem giveHost_resPlen (v : Nat) (s : State) : (giveHost v s).resPlen = s.resPlen := rfl
@[simp] theorem giveHost_frameBuf (v : Nat) (s : State) : (giveHost v s).frameBuf = s.frameBuf := rfl
@[simp] theorem giveHost_opBuf (v : Nat) (s : State) : (giveHost v s).opBuf = s.opBuf := rfl
@[simp] theorem giveHost_txPend (v : Nat) (s : State) : (giveHost v s).txPend = s.txPend := rfl
@[simp] theorem giveHost_hist (v : Nat) (s : State) : (giveHost v s).hist = s.hist := rfl
@[simp] theorem giveHost_faults (v : Nat) (s : State) : (giveHost v s).faults = s.faults := rfl
@[simp] theorem giveHost_refused (v : Nat) (s : State) : (giveHost v s).refused = s.refused := rfl
@[simp] theorem giveHost_refusals (v : Nat) (s : State) : (giveHost v s).refusals = s.refusals := rfl
@[simp] theorem giveHost_hostReads (v : Nat) (s : State) : (giveHost v s).hostReads = s.hostReads ++ [v] := rfl
@[simp] theorem giveHost_inputs (v : Nat) (s : State) : (giveHost v s).inputs = s.inputs := rfl

@[simp] theorem placeFrame_status (f : Frame) (s : State) : (placeFrame f s).status = s.status := rfl
@[simp] theorem placeFrame_engine (f : Frame) (s : State) : (placeFrame f s).engine = s.engine := rfl
@[simp] theorem placeFrame_filterEtype (f : Frame) (s : State) : (placeFrame f s).filterEtype = s.filterEtype := rfl
@[simp] theorem placeFrame_opDst (f : Frame) (s : State) : (placeFrame f s).opDst = s.opDst := rfl
@[simp] theorem placeFrame_opSrc (f : Frame) (s : State) : (placeFrame f s).opSrc = s.opSrc := rfl
@[simp] theorem placeFrame_opEtype (f : Frame) (s : State) : (placeFrame f s).opEtype = s.opEtype := rfl
@[simp] theorem placeFrame_opVlan (f : Frame) (s : State) : (placeFrame f s).opVlan = s.opVlan := rfl
@[simp] theorem placeFrame_opLen (f : Frame) (s : State) : (placeFrame f s).opLen = s.opLen := rfl
@[simp] theorem placeFrame_frameLen (f : Frame) (s : State) : (placeFrame f s).frameLen = s.frameLen := rfl
@[simp] theorem placeFrame_resDst (f : Frame) (s : State) : (placeFrame f s).resDst = s.resDst := rfl
@[simp] theorem placeFrame_resSrc (f : Frame) (s : State) : (placeFrame f s).resSrc = s.resSrc := rfl
@[simp] theorem placeFrame_resEtype (f : Frame) (s : State) : (placeFrame f s).resEtype = s.resEtype := rfl
@[simp] theorem placeFrame_resTagged (f : Frame) (s : State) : (placeFrame f s).resTagged = s.resTagged := rfl
@[simp] theorem placeFrame_resTci (f : Frame) (s : State) : (placeFrame f s).resTci = s.resTci := rfl
@[simp] theorem placeFrame_resVid (f : Frame) (s : State) : (placeFrame f s).resVid = s.resVid := rfl
@[simp] theorem placeFrame_resPoff (f : Frame) (s : State) : (placeFrame f s).resPoff = s.resPoff := rfl
@[simp] theorem placeFrame_resPlen (f : Frame) (s : State) : (placeFrame f s).resPlen = s.resPlen := rfl
@[simp] theorem placeFrame_frameBuf (f : Frame) (s : State) : (placeFrame f s).frameBuf = Memory.writeBytes s.frameBuf 0 f := rfl
@[simp] theorem placeFrame_opBuf (f : Frame) (s : State) : (placeFrame f s).opBuf = s.opBuf := rfl
@[simp] theorem placeFrame_txPend (f : Frame) (s : State) : (placeFrame f s).txPend = s.txPend := rfl
@[simp] theorem placeFrame_hist (f : Frame) (s : State) : (placeFrame f s).hist = s.hist := rfl
@[simp] theorem placeFrame_faults (f : Frame) (s : State) : (placeFrame f s).faults = s.faults := rfl
@[simp] theorem placeFrame_refused (f : Frame) (s : State) : (placeFrame f s).refused = s.refused := rfl
@[simp] theorem placeFrame_refusals (f : Frame) (s : State) : (placeFrame f s).refusals = s.refusals := rfl
@[simp] theorem placeFrame_hostReads (f : Frame) (s : State) : (placeFrame f s).hostReads = s.hostReads := rfl
@[simp] theorem placeFrame_inputs (f : Frame) (s : State) : (placeFrame f s).inputs = s.inputs := rfl

@[simp] theorem setFrameLen_status (n : Nat) (s : State) : (setFrameLen n s).status = s.status := rfl
@[simp] theorem setFrameLen_engine (n : Nat) (s : State) : (setFrameLen n s).engine = s.engine := rfl
@[simp] theorem setFrameLen_filterEtype (n : Nat) (s : State) : (setFrameLen n s).filterEtype = s.filterEtype := rfl
@[simp] theorem setFrameLen_opDst (n : Nat) (s : State) : (setFrameLen n s).opDst = s.opDst := rfl
@[simp] theorem setFrameLen_opSrc (n : Nat) (s : State) : (setFrameLen n s).opSrc = s.opSrc := rfl
@[simp] theorem setFrameLen_opEtype (n : Nat) (s : State) : (setFrameLen n s).opEtype = s.opEtype := rfl
@[simp] theorem setFrameLen_opVlan (n : Nat) (s : State) : (setFrameLen n s).opVlan = s.opVlan := rfl
@[simp] theorem setFrameLen_opLen (n : Nat) (s : State) : (setFrameLen n s).opLen = s.opLen := rfl
@[simp] theorem setFrameLen_frameLen (n : Nat) (s : State) : (setFrameLen n s).frameLen = some (BitVec.ofNat 16 n) := rfl
@[simp] theorem setFrameLen_resDst (n : Nat) (s : State) : (setFrameLen n s).resDst = s.resDst := rfl
@[simp] theorem setFrameLen_resSrc (n : Nat) (s : State) : (setFrameLen n s).resSrc = s.resSrc := rfl
@[simp] theorem setFrameLen_resEtype (n : Nat) (s : State) : (setFrameLen n s).resEtype = s.resEtype := rfl
@[simp] theorem setFrameLen_resTagged (n : Nat) (s : State) : (setFrameLen n s).resTagged = s.resTagged := rfl
@[simp] theorem setFrameLen_resTci (n : Nat) (s : State) : (setFrameLen n s).resTci = s.resTci := rfl
@[simp] theorem setFrameLen_resVid (n : Nat) (s : State) : (setFrameLen n s).resVid = s.resVid := rfl
@[simp] theorem setFrameLen_resPoff (n : Nat) (s : State) : (setFrameLen n s).resPoff = s.resPoff := rfl
@[simp] theorem setFrameLen_resPlen (n : Nat) (s : State) : (setFrameLen n s).resPlen = s.resPlen := rfl
@[simp] theorem setFrameLen_frameBuf (n : Nat) (s : State) : (setFrameLen n s).frameBuf = s.frameBuf := rfl
@[simp] theorem setFrameLen_opBuf (n : Nat) (s : State) : (setFrameLen n s).opBuf = s.opBuf := rfl
@[simp] theorem setFrameLen_txPend (n : Nat) (s : State) : (setFrameLen n s).txPend = s.txPend := rfl
@[simp] theorem setFrameLen_hist (n : Nat) (s : State) : (setFrameLen n s).hist = s.hist := rfl
@[simp] theorem setFrameLen_faults (n : Nat) (s : State) : (setFrameLen n s).faults = s.faults := rfl
@[simp] theorem setFrameLen_refused (n : Nat) (s : State) : (setFrameLen n s).refused = s.refused := rfl
@[simp] theorem setFrameLen_refusals (n : Nat) (s : State) : (setFrameLen n s).refusals = s.refusals := rfl
@[simp] theorem setFrameLen_hostReads (n : Nat) (s : State) : (setFrameLen n s).hostReads = s.hostReads := rfl
@[simp] theorem setFrameLen_inputs (n : Nat) (s : State) : (setFrameLen n s).inputs = s.inputs := rfl

@[simp] theorem resetEngine_status (s : State) : (resetEngine s).status = State.reset.status := rfl
@[simp] theorem resetEngine_engine (s : State) : (resetEngine s).engine = State.reset.engine := rfl
@[simp] theorem resetEngine_filterEtype (s : State) : (resetEngine s).filterEtype = State.reset.filterEtype := rfl
@[simp] theorem resetEngine_opDst (s : State) : (resetEngine s).opDst = State.reset.opDst := rfl
@[simp] theorem resetEngine_opSrc (s : State) : (resetEngine s).opSrc = State.reset.opSrc := rfl
@[simp] theorem resetEngine_opEtype (s : State) : (resetEngine s).opEtype = State.reset.opEtype := rfl
@[simp] theorem resetEngine_opVlan (s : State) : (resetEngine s).opVlan = State.reset.opVlan := rfl
@[simp] theorem resetEngine_opLen (s : State) : (resetEngine s).opLen = State.reset.opLen := rfl
@[simp] theorem resetEngine_frameLen (s : State) : (resetEngine s).frameLen = State.reset.frameLen := rfl
@[simp] theorem resetEngine_resDst (s : State) : (resetEngine s).resDst = State.reset.resDst := rfl
@[simp] theorem resetEngine_resSrc (s : State) : (resetEngine s).resSrc = State.reset.resSrc := rfl
@[simp] theorem resetEngine_resEtype (s : State) : (resetEngine s).resEtype = State.reset.resEtype := rfl
@[simp] theorem resetEngine_resTagged (s : State) : (resetEngine s).resTagged = State.reset.resTagged := rfl
@[simp] theorem resetEngine_resTci (s : State) : (resetEngine s).resTci = State.reset.resTci := rfl
@[simp] theorem resetEngine_resVid (s : State) : (resetEngine s).resVid = State.reset.resVid := rfl
@[simp] theorem resetEngine_resPoff (s : State) : (resetEngine s).resPoff = State.reset.resPoff := rfl
@[simp] theorem resetEngine_resPlen (s : State) : (resetEngine s).resPlen = State.reset.resPlen := rfl
@[simp] theorem resetEngine_frameBuf (s : State) : (resetEngine s).frameBuf = State.reset.frameBuf := rfl
@[simp] theorem resetEngine_opBuf (s : State) : (resetEngine s).opBuf = State.reset.opBuf := rfl
@[simp] theorem resetEngine_txPend (s : State) : (resetEngine s).txPend = State.reset.txPend := rfl
@[simp] theorem resetEngine_hist (s : State) : (resetEngine s).hist = s.hist ++ [.reset] := rfl
@[simp] theorem resetEngine_faults (s : State) : (resetEngine s).faults = s.faults := rfl
@[simp] theorem resetEngine_refused (s : State) : (resetEngine s).refused = s.refused := rfl
@[simp] theorem resetEngine_refusals (s : State) : (resetEngine s).refusals = s.refusals := rfl
@[simp] theorem resetEngine_hostReads (s : State) : (resetEngine s).hostReads = s.hostReads := rfl
@[simp] theorem resetEngine_inputs (s : State) : (resetEngine s).inputs = s.inputs := rfl

@[simp] theorem setBuf_status (b : Buf) (m : Memory) (s : State) : (setBuf b m s).status = s.status := by cases b <;> rfl
@[simp] theorem setBuf_engine (b : Buf) (m : Memory) (s : State) : (setBuf b m s).engine = s.engine := by cases b <;> rfl
@[simp] theorem setBuf_filterEtype (b : Buf) (m : Memory) (s : State) : (setBuf b m s).filterEtype = s.filterEtype := by cases b <;> rfl
@[simp] theorem setBuf_opDst (b : Buf) (m : Memory) (s : State) : (setBuf b m s).opDst = s.opDst := by cases b <;> rfl
@[simp] theorem setBuf_opSrc (b : Buf) (m : Memory) (s : State) : (setBuf b m s).opSrc = s.opSrc := by cases b <;> rfl
@[simp] theorem setBuf_opEtype (b : Buf) (m : Memory) (s : State) : (setBuf b m s).opEtype = s.opEtype := by cases b <;> rfl
@[simp] theorem setBuf_opVlan (b : Buf) (m : Memory) (s : State) : (setBuf b m s).opVlan = s.opVlan := by cases b <;> rfl
@[simp] theorem setBuf_opLen (b : Buf) (m : Memory) (s : State) : (setBuf b m s).opLen = s.opLen := by cases b <;> rfl
@[simp] theorem setBuf_frameLen (b : Buf) (m : Memory) (s : State) : (setBuf b m s).frameLen = s.frameLen := by cases b <;> rfl
@[simp] theorem setBuf_resDst (b : Buf) (m : Memory) (s : State) : (setBuf b m s).resDst = s.resDst := by cases b <;> rfl
@[simp] theorem setBuf_resSrc (b : Buf) (m : Memory) (s : State) : (setBuf b m s).resSrc = s.resSrc := by cases b <;> rfl
@[simp] theorem setBuf_resEtype (b : Buf) (m : Memory) (s : State) : (setBuf b m s).resEtype = s.resEtype := by cases b <;> rfl
@[simp] theorem setBuf_resTagged (b : Buf) (m : Memory) (s : State) : (setBuf b m s).resTagged = s.resTagged := by cases b <;> rfl
@[simp] theorem setBuf_resTci (b : Buf) (m : Memory) (s : State) : (setBuf b m s).resTci = s.resTci := by cases b <;> rfl
@[simp] theorem setBuf_resVid (b : Buf) (m : Memory) (s : State) : (setBuf b m s).resVid = s.resVid := by cases b <;> rfl
@[simp] theorem setBuf_resPoff (b : Buf) (m : Memory) (s : State) : (setBuf b m s).resPoff = s.resPoff := by cases b <;> rfl
@[simp] theorem setBuf_resPlen (b : Buf) (m : Memory) (s : State) : (setBuf b m s).resPlen = s.resPlen := by cases b <;> rfl
@[simp] theorem setBuf_txPend (b : Buf) (m : Memory) (s : State) : (setBuf b m s).txPend = s.txPend := by cases b <;> rfl
@[simp] theorem setBuf_hist (b : Buf) (m : Memory) (s : State) : (setBuf b m s).hist = s.hist := by cases b <;> rfl
@[simp] theorem setBuf_faults (b : Buf) (m : Memory) (s : State) : (setBuf b m s).faults = s.faults := by cases b <;> rfl
@[simp] theorem setBuf_refused (b : Buf) (m : Memory) (s : State) : (setBuf b m s).refused = s.refused := by cases b <;> rfl
@[simp] theorem setBuf_refusals (b : Buf) (m : Memory) (s : State) : (setBuf b m s).refusals = s.refusals := by cases b <;> rfl
@[simp] theorem setBuf_hostReads (b : Buf) (m : Memory) (s : State) : (setBuf b m s).hostReads = s.hostReads := by cases b <;> rfl
@[simp] theorem setBuf_inputs (b : Buf) (m : Memory) (s : State) : (setBuf b m s).inputs = s.inputs := by cases b <;> rfl
@[simp] theorem bufOf_setBuf (b : Buf) (m : Memory) (s : State) : bufOf b (setBuf b m s) = m := by cases b <;> rfl

@[simp] theorem regWrite_status (r : RegName) (v : Nat) (s : State) : (regWrite r v s).status = s.status := by cases r <;> rfl
@[simp] theorem regWrite_engine (r : RegName) (v : Nat) (s : State) : (regWrite r v s).engine = s.engine := by cases r <;> rfl
@[simp] theorem regWrite_filterEtype (r : RegName) (v : Nat) (s : State) : (regWrite r v s).filterEtype = s.filterEtype := by cases r <;> rfl
@[simp] theorem regWrite_resDst (r : RegName) (v : Nat) (s : State) : (regWrite r v s).resDst = s.resDst := by cases r <;> rfl
@[simp] theorem regWrite_resSrc (r : RegName) (v : Nat) (s : State) : (regWrite r v s).resSrc = s.resSrc := by cases r <;> rfl
@[simp] theorem regWrite_resEtype (r : RegName) (v : Nat) (s : State) : (regWrite r v s).resEtype = s.resEtype := by cases r <;> rfl
@[simp] theorem regWrite_resTagged (r : RegName) (v : Nat) (s : State) : (regWrite r v s).resTagged = s.resTagged := by cases r <;> rfl
@[simp] theorem regWrite_resTci (r : RegName) (v : Nat) (s : State) : (regWrite r v s).resTci = s.resTci := by cases r <;> rfl
@[simp] theorem regWrite_resVid (r : RegName) (v : Nat) (s : State) : (regWrite r v s).resVid = s.resVid := by cases r <;> rfl
@[simp] theorem regWrite_resPoff (r : RegName) (v : Nat) (s : State) : (regWrite r v s).resPoff = s.resPoff := by cases r <;> rfl
@[simp] theorem regWrite_resPlen (r : RegName) (v : Nat) (s : State) : (regWrite r v s).resPlen = s.resPlen := by cases r <;> rfl
@[simp] theorem regWrite_frameBuf (r : RegName) (v : Nat) (s : State) : (regWrite r v s).frameBuf = s.frameBuf := by cases r <;> rfl
@[simp] theorem regWrite_opBuf (r : RegName) (v : Nat) (s : State) : (regWrite r v s).opBuf = s.opBuf := by cases r <;> rfl
@[simp] theorem regWrite_txPend (r : RegName) (v : Nat) (s : State) : (regWrite r v s).txPend = s.txPend := by cases r <;> rfl
@[simp] theorem regWrite_hist (r : RegName) (v : Nat) (s : State) : (regWrite r v s).hist = s.hist := by cases r <;> rfl
@[simp] theorem regWrite_faults (r : RegName) (v : Nat) (s : State) : (regWrite r v s).faults = s.faults := by cases r <;> rfl
@[simp] theorem regWrite_refused (r : RegName) (v : Nat) (s : State) : (regWrite r v s).refused = s.refused := by cases r <;> rfl
@[simp] theorem regWrite_refusals (r : RegName) (v : Nat) (s : State) : (regWrite r v s).refusals = s.refusals := by cases r <;> rfl
@[simp] theorem regWrite_hostReads (r : RegName) (v : Nat) (s : State) : (regWrite r v s).hostReads = s.hostReads := by cases r <;> rfl
@[simp] theorem regWrite_inputs (r : RegName) (v : Nat) (s : State) : (regWrite r v s).inputs = s.inputs := by cases r <;> rfl

@[simp] theorem continueWith_status (ops : List HostOp) (s : State) : (continueWith ops s).status = s.status := by cases ops <;> rfl
@[simp] theorem continueWith_engine (ops : List HostOp) (s : State) : (continueWith ops s).engine = s.engine := by cases ops <;> rfl
@[simp] theorem continueWith_filterEtype (ops : List HostOp) (s : State) : (continueWith ops s).filterEtype = s.filterEtype := by cases ops <;> rfl
@[simp] theorem continueWith_opDst (ops : List HostOp) (s : State) : (continueWith ops s).opDst = s.opDst := by cases ops <;> rfl
@[simp] theorem continueWith_opSrc (ops : List HostOp) (s : State) : (continueWith ops s).opSrc = s.opSrc := by cases ops <;> rfl
@[simp] theorem continueWith_opEtype (ops : List HostOp) (s : State) : (continueWith ops s).opEtype = s.opEtype := by cases ops <;> rfl
@[simp] theorem continueWith_opVlan (ops : List HostOp) (s : State) : (continueWith ops s).opVlan = s.opVlan := by cases ops <;> rfl
@[simp] theorem continueWith_opLen (ops : List HostOp) (s : State) : (continueWith ops s).opLen = s.opLen := by cases ops <;> rfl
@[simp] theorem continueWith_frameLen (ops : List HostOp) (s : State) : (continueWith ops s).frameLen = s.frameLen := by cases ops <;> rfl
@[simp] theorem continueWith_resDst (ops : List HostOp) (s : State) : (continueWith ops s).resDst = s.resDst := by cases ops <;> rfl
@[simp] theorem continueWith_resSrc (ops : List HostOp) (s : State) : (continueWith ops s).resSrc = s.resSrc := by cases ops <;> rfl
@[simp] theorem continueWith_resEtype (ops : List HostOp) (s : State) : (continueWith ops s).resEtype = s.resEtype := by cases ops <;> rfl
@[simp] theorem continueWith_resTagged (ops : List HostOp) (s : State) : (continueWith ops s).resTagged = s.resTagged := by cases ops <;> rfl
@[simp] theorem continueWith_resTci (ops : List HostOp) (s : State) : (continueWith ops s).resTci = s.resTci := by cases ops <;> rfl
@[simp] theorem continueWith_resVid (ops : List HostOp) (s : State) : (continueWith ops s).resVid = s.resVid := by cases ops <;> rfl
@[simp] theorem continueWith_resPoff (ops : List HostOp) (s : State) : (continueWith ops s).resPoff = s.resPoff := by cases ops <;> rfl
@[simp] theorem continueWith_resPlen (ops : List HostOp) (s : State) : (continueWith ops s).resPlen = s.resPlen := by cases ops <;> rfl
@[simp] theorem continueWith_frameBuf (ops : List HostOp) (s : State) : (continueWith ops s).frameBuf = s.frameBuf := by cases ops <;> rfl
@[simp] theorem continueWith_opBuf (ops : List HostOp) (s : State) : (continueWith ops s).opBuf = s.opBuf := by cases ops <;> rfl
@[simp] theorem continueWith_txPend (ops : List HostOp) (s : State) : (continueWith ops s).txPend = s.txPend := by cases ops <;> rfl
@[simp] theorem continueWith_hist (ops : List HostOp) (s : State) : (continueWith ops s).hist = s.hist := by cases ops <;> rfl
@[simp] theorem continueWith_faults (ops : List HostOp) (s : State) : (continueWith ops s).faults = s.faults := by cases ops <;> rfl
@[simp] theorem continueWith_refused (ops : List HostOp) (s : State) : (continueWith ops s).refused = s.refused := by cases ops <;> rfl
@[simp] theorem continueWith_refusals (ops : List HostOp) (s : State) : (continueWith ops s).refusals = s.refusals := by cases ops <;> rfl
@[simp] theorem continueWith_hostReads (ops : List HostOp) (s : State) : (continueWith ops s).hostReads = s.hostReads := by cases ops <;> rfl

@[simp] theorem writeResults_engine (r : DecodeResult) (s : State) : (writeResults r s).engine = s.engine := by cases r <;> rfl
@[simp] theorem writeResults_filterEtype (r : DecodeResult) (s : State) : (writeResults r s).filterEtype = s.filterEtype := by cases r <;> rfl
@[simp] theorem writeResults_opDst (r : DecodeResult) (s : State) : (writeResults r s).opDst = s.opDst := by cases r <;> rfl
@[simp] theorem writeResults_opSrc (r : DecodeResult) (s : State) : (writeResults r s).opSrc = s.opSrc := by cases r <;> rfl
@[simp] theorem writeResults_opEtype (r : DecodeResult) (s : State) : (writeResults r s).opEtype = s.opEtype := by cases r <;> rfl
@[simp] theorem writeResults_opVlan (r : DecodeResult) (s : State) : (writeResults r s).opVlan = s.opVlan := by cases r <;> rfl
@[simp] theorem writeResults_opLen (r : DecodeResult) (s : State) : (writeResults r s).opLen = s.opLen := by cases r <;> rfl
@[simp] theorem writeResults_frameLen (r : DecodeResult) (s : State) : (writeResults r s).frameLen = s.frameLen := by cases r <;> rfl
@[simp] theorem writeResults_frameBuf (r : DecodeResult) (s : State) : (writeResults r s).frameBuf = s.frameBuf := by cases r <;> rfl
@[simp] theorem writeResults_opBuf (r : DecodeResult) (s : State) : (writeResults r s).opBuf = s.opBuf := by cases r <;> rfl
@[simp] theorem writeResults_txPend (r : DecodeResult) (s : State) : (writeResults r s).txPend = s.txPend := by cases r <;> rfl
@[simp] theorem writeResults_hist (r : DecodeResult) (s : State) : (writeResults r s).hist = s.hist := by cases r <;> rfl
@[simp] theorem writeResults_faults (r : DecodeResult) (s : State) : (writeResults r s).faults = s.faults := by cases r <;> rfl
@[simp] theorem writeResults_refused (r : DecodeResult) (s : State) : (writeResults r s).refused = s.refused := by cases r <;> rfl
@[simp] theorem writeResults_refusals (r : DecodeResult) (s : State) : (writeResults r s).refusals = s.refusals := by cases r <;> rfl
@[simp] theorem writeResults_hostReads (r : DecodeResult) (s : State) : (writeResults r s).hostReads = s.hostReads := by cases r <;> rfl
@[simp] theorem writeResults_inputs (r : DecodeResult) (s : State) : (writeResults r s).inputs = s.inputs := by cases r <;> rfl

@[simp] theorem finishEncode_status (f : Frame) (s : State) : (finishEncode f s).status = .ok := rfl
@[simp] theorem finishEncode_engine (f : Frame) (s : State) : (finishEncode f s).engine = s.engine := rfl
@[simp] theorem finishEncode_filterEtype (f : Frame) (s : State) : (finishEncode f s).filterEtype = s.filterEtype := rfl
@[simp] theorem finishEncode_opDst (f : Frame) (s : State) : (finishEncode f s).opDst = s.opDst := rfl
@[simp] theorem finishEncode_opSrc (f : Frame) (s : State) : (finishEncode f s).opSrc = s.opSrc := rfl
@[simp] theorem finishEncode_opEtype (f : Frame) (s : State) : (finishEncode f s).opEtype = s.opEtype := rfl
@[simp] theorem finishEncode_opVlan (f : Frame) (s : State) : (finishEncode f s).opVlan = s.opVlan := rfl
@[simp] theorem finishEncode_opLen (f : Frame) (s : State) : (finishEncode f s).opLen = s.opLen := rfl
@[simp] theorem finishEncode_frameLen (f : Frame) (s : State) : (finishEncode f s).frameLen = some (BitVec.ofNat 16 f.length) := rfl
@[simp] theorem finishEncode_resDst (f : Frame) (s : State) : (finishEncode f s).resDst = s.resDst := rfl
@[simp] theorem finishEncode_resSrc (f : Frame) (s : State) : (finishEncode f s).resSrc = s.resSrc := rfl
@[simp] theorem finishEncode_resEtype (f : Frame) (s : State) : (finishEncode f s).resEtype = s.resEtype := rfl
@[simp] theorem finishEncode_resTagged (f : Frame) (s : State) : (finishEncode f s).resTagged = s.resTagged := rfl
@[simp] theorem finishEncode_resTci (f : Frame) (s : State) : (finishEncode f s).resTci = s.resTci := rfl
@[simp] theorem finishEncode_resVid (f : Frame) (s : State) : (finishEncode f s).resVid = s.resVid := rfl
@[simp] theorem finishEncode_resPoff (f : Frame) (s : State) : (finishEncode f s).resPoff = s.resPoff := rfl
@[simp] theorem finishEncode_resPlen (f : Frame) (s : State) : (finishEncode f s).resPlen = s.resPlen := rfl
@[simp] theorem finishEncode_frameBuf (f : Frame) (s : State) : (finishEncode f s).frameBuf = Memory.writeBytes s.frameBuf 0 f := rfl
@[simp] theorem finishEncode_opBuf (f : Frame) (s : State) : (finishEncode f s).opBuf = s.opBuf := rfl
@[simp] theorem finishEncode_txPend (f : Frame) (s : State) : (finishEncode f s).txPend = s.txPend := rfl
@[simp] theorem finishEncode_hist (f : Frame) (s : State) : (finishEncode f s).hist = s.hist := rfl
@[simp] theorem finishEncode_faults (f : Frame) (s : State) : (finishEncode f s).faults = s.faults := rfl
@[simp] theorem finishEncode_refused (f : Frame) (s : State) : (finishEncode f s).refused = s.refused := rfl
@[simp] theorem finishEncode_refusals (f : Frame) (s : State) : (finishEncode f s).refusals = s.refusals := rfl
@[simp] theorem finishEncode_hostReads (f : Frame) (s : State) : (finishEncode f s).hostReads = s.hostReads := rfl
@[simp] theorem finishEncode_inputs (f : Frame) (s : State) : (finishEncode f s).inputs = s.inputs := rfl

/-- Both buffers are in canonical form after reset: neither lists a byte (R210). -/
theorem reset_buffers_wf : Memory.wf State.reset.frameBuf ∧ Memory.wf State.reset.opBuf :=
  ⟨List.Pairwise.nil, List.Pairwise.nil⟩

end Sys2Proof.Machine
end

