-- ==== Sys2Proof/Laws/Ops.lean ====
section
/-! SUPPORT. What each shared operation can do, said once: the gate of a command, the reads of operands, and each
command's meaning as its own rule behind the gate. -/

namespace Sys2Proof.Machine

@[simp] theorem settle_ok (s t : State) : settle s (.ok t) = t := rfl

@[simp] theorem settle_unwritten (s : State) (n : CellName) : settle s (.error (.unwritten n)) = recordFault n s := rfl

@[simp] theorem settle_refuse (s : State) (m : RefuseMark) : settle s (.error (.refuse m)) = recordRefusal m s := rfl

/-- In an engine state that allows it, a command is its own rule, settled (R80, R84). -/
theorem command_allowed {i : Instr} {s : State} (r : Except Abort State) (h : allowed i s.engine = true) :
    command i s r = .next (settle s r) := by simp [command, h]

/-- In an engine state that does not allow it, a command is refused (R84). -/
theorem command_refused {i : Instr} {s : State} (r : Except Abort State) (h : allowed i s.engine = false) :
    command i s r = .next (recordRefusal (.commandInState i s.engine) s) := by simp [command, h]

/-- Every command is allowed in `IDLE` (R84). -/
@[simp] theorem allowed_idle (i : Instr) : allowed i .idle = true := rfl

/-- A command's next state: its rule's result, or the state with one mark recorded (R39). -/
theorem command_cases {i : Instr} {s t : State} {r : Except Abort State} (h : command i s r = .next t) :
    (allowed i s.engine = false ∧ t = recordRefusal (.commandInState i s.engine) s) ∨
    (allowed i s.engine = true ∧
      (r = .ok t ∨ (∃ n, r = .error (.unwritten n) ∧ t = recordFault n s) ∨
        ∃ m, r = .error (.refuse m) ∧ t = recordRefusal m s)) := by
  cases ha : allowed i s.engine with
  | false => rw [command_refused r ha] at h; cases h; exact .inl ⟨rfl, rfl⟩
  | true =>
    rw [command_allowed r ha] at h
    cases h
    refine .inr ⟨rfl, ?_⟩
    match r with
    | .ok t => exact .inl rfl
    | .error (.unwritten n) => exact .inr (.inl ⟨n, rfl, rfl⟩)
    | .error (.refuse m) => exact .inr (.inr ⟨m, rfl, rfl⟩)

@[simp] theorem need_some {α : Type} (r : RegName) (v : α) : need r (some v) = .ok v := rfl

@[simp] theorem need_none {α : Type} (r : RegName) : need r (none : Option α) = .error (.unwritten (.reg r)) := rfl

theorem need_eq_ok_iff {α : Type} (r : RegName) (o : Option α) (v : α) : need r o = .ok v ↔ o = some v := by
  cases o <;> simp [need]

@[simp] theorem except_bind_ok {ε α β : Type} (v : α) (f : α → Except ε β) : (Except.ok v >>= f) = f v := rfl

@[simp] theorem except_bind_error {ε α β : Type} (e : ε) (f : α → Except ε β) : (Except.error e >>= f) = .error e := rfl

/-- A sequence of reads completes exactly when each one does. -/
theorem except_bind_eq_ok {ε α β : Type} {x : Except ε α} {f : α → Except ε β} {b : β} :
    (x >>= f) = .ok b ↔ ∃ a, x = .ok a ∧ f a = .ok b := by
  cases x <;> simp

/-- A sequence of reads fails where its first failing one does. -/
theorem except_bind_eq_error {ε α β : Type} {x : Except ε α} {f : α → Except ε β} {e : ε} :
    (x >>= f) = .error e ↔ x = .error e ∨ ∃ a, x = .ok a ∧ f a = .error e := by
  cases x <;> simp

theorem needBytes_eq_ok_iff (b : Buf) (s : State) (n : Nat) (f : Frame) :
    needBytes b s n = .ok f ↔ f.length = n ∧ ∀ i, i < n → Memory.read (bufOf b s) i = f[i]? := by
  have h := Memory.readBytes_eq_ok_iff (bufOf b s) 0 n f
  simp only [Nat.zero_add] at h
  rw [← h, needBytes]
  cases Memory.readBytes (bufOf b s) 0 n <;> simp

theorem needBytes_error {b : Buf} {s : State} {n : Nat} {e : Abort} (h : needBytes b s n = .error e) :
    ∃ k, k < n ∧ Memory.read (bufOf b s) k = none ∧ e = .unwritten (.byte b k) := by
  rw [needBytes] at h
  cases hr : Memory.readBytes (bufOf b s) 0 n with
  | ok f => rw [hr] at h; cases h
  | error k =>
    rw [hr] at h
    cases h
    obtain ⟨-, h2, h3⟩ := Memory.readBytes_error _ _ _ _ hr
    exact ⟨k, by omega, h3, rfl⟩

/-- The frame operand reads as `b` exactly when the state holds the frame `b` (R34). -/
theorem frameOperand_eq_ok_iff (s : State) (b : Frame) : frameOperand s = .ok b ↔ HoldsFrame s b := by
  simp only [frameOperand, except_bind_eq_ok, need_eq_ok_iff, needBytes_eq_ok_iff, HoldsFrame, bufOf]
  constructor
  · rintro ⟨n, hn, hl, h⟩
    exact ⟨n, hn, hl.symm, fun i hi => h i (hl ▸ hi)⟩
  · rintro ⟨n, hn, hl, h⟩
    exact ⟨n, hn, hl.symm, fun i hi => h i (hl ▸ hi)⟩

/-- The payload operand reads as `p` exactly when the state holds the payload `p` (R34). -/
theorem payloadOperand_eq_ok_iff (s : State) (p : Frame) : payloadOperand s = .ok p ↔ HoldsPayload s p := by
  simp only [payloadOperand, except_bind_eq_ok, need_eq_ok_iff, needBytes_eq_ok_iff, HoldsPayload, bufOf]
  constructor
  · rintro ⟨n, hn, hl, h⟩
    exact ⟨n, hn, hl.symm, fun i hi => h i (hl ▸ hi)⟩
  · rintro ⟨n, hn, hl, h⟩
    exact ⟨n, hn, hl.symm, fun i hi => h i (hl ▸ hi)⟩

/-- How the frame operand fails (R24). -/
theorem frameOperand_error {s : State} {e : Abort} (h : frameOperand s = .error e) :
    (s.frameLen = none ∧ e = .unwritten (.reg .frameLen)) ∨
    ∃ n k, s.frameLen = some n ∧ k < n.toNat ∧ Memory.read s.frameBuf k = none ∧ e = .unwritten (.byte .frame k) := by
  unfold frameOperand at h
  cases hn : s.frameLen with
  | none => rw [hn] at h; simp at h; exact .inl ⟨rfl, h.symm⟩
  | some n =>
    rw [hn] at h
    simp only [need_some, except_bind_ok] at h
    obtain ⟨k, h1, h2, h3⟩ := needBytes_error h
    exact .inr ⟨n, k, rfl, h1, h2, h3⟩

/-- How the payload operand fails (R24). -/
theorem payloadOperand_error {s : State} {e : Abort} (h : payloadOperand s = .error e) :
    (s.opLen = none ∧ e = .unwritten (.reg .opLen)) ∨
    ∃ n k, s.opLen = some n ∧ k < n.toNat ∧ Memory.read s.opBuf k = none ∧ e = .unwritten (.byte .op k) := by
  unfold payloadOperand at h
  cases hn : s.opLen with
  | none => rw [hn] at h; simp at h; exact .inl ⟨rfl, h.symm⟩
  | some n =>
    rw [hn] at h
    simp only [need_some, except_bind_ok] at h
    obtain ⟨k, h1, h2, h3⟩ := needBytes_error h
    exact .inr ⟨n, k, rfl, h1, h2, h3⟩

/-- A state holds one frame at most. -/
theorem HoldsFrame_unique {s : State} {b c : Frame} (hb : HoldsFrame s b) (hc : HoldsFrame s c) : b = c := by
  have h1 := (frameOperand_eq_ok_iff s b).mpr hb
  rw [(frameOperand_eq_ok_iff s c).mpr hc] at h1
  exact (Except.ok.inj h1).symm

/-- A state holds one payload operand at most. -/
theorem HoldsPayload_unique {s : State} {b c : Frame} (hb : HoldsPayload s b) (hc : HoldsPayload s c) : b = c := by
  have h1 := (payloadOperand_eq_ok_iff s b).mpr hb
  rw [(payloadOperand_eq_ok_iff s c).mpr hc] at h1
  exact (Except.ok.inj h1).symm

/-- The own rule of each command. -/
def ownRule (i : Instr) (s : State) : Except Abort State :=
  match i with
  | .encode => encodeRule Config.bufCap s
  | .encodeV => encodeVRule Config.bufCap s
  | .decode => decodeRule s
  | .filter => filterRule s
  | .swap => swapRule s
  | .qualifyAe => qualifyAeRule s
  | .qualifyAep => qualifyAepRule s
  | .qualifyA => qualifyARule s
  | .setfilter => setfilterRule s
  | .start => .ok (startRule s)
  | .stop => .ok (stopRule s)

/-- Every command is its own rule behind the one gate (R80). -/
theorem exec_eq (i : Instr) (s : State) : exec i s = command i s (ownRule i s) := by cases i <;> rfl

/-- A command always answers a next state: a fault or a refusal of the spec is a mark in it (R39). -/
theorem exec_next (i : Instr) (s : State) : ∃ t, exec i s = .next t := ⟨_, exec_eq i s⟩

/-- In `IDLE` a command is its own rule, settled. -/
theorem exec_idle (i : Instr) {s : State} (h : s.engine = .idle) : exec i s = .next (settle s (ownRule i s)) := by
  rw [exec_eq, command_allowed]
  rw [h]
  rfl

end Sys2Proof.Machine
end

