-- ==== Sys2Proof/Laws/PerInstr.lean ====
section
/-! SUPPORT. Statements about every instruction as syntax, one lemma a constructor. `CommandWordShape`: the command's word
has `RSV` zero, an operation code and a mode of 30_encoding.md R82, and is well formed (R81, R83). -/

namespace Sys2Proof.Laws.CommandWordShape

/-- The fields of the encoded word are the command's own, `RSV` is zero, and the checks of R83 pass. -/
def Statement (i : Instr) : Prop :=
  fieldsOf (encodeWord i) = ⟨(opModeOf i).1, (opModeOf i).2, 0#22⟩ ∧
    (fieldsOf (encodeWord i)).wellFormed = true ∧ i.wellFormed = true

theorem encode : Statement .encode := ⟨by decide, by decide, rfl⟩

theorem encodeV : Statement .encodeV := ⟨by decide, by decide, rfl⟩

theorem decode : Statement .decode := ⟨by decide, by decide, rfl⟩

theorem filter : Statement .filter := ⟨by decide, by decide, rfl⟩

theorem swap : Statement .swap := ⟨by decide, by decide, rfl⟩

theorem qualifyAe : Statement .qualifyAe := ⟨by decide, by decide, rfl⟩

theorem qualifyAep : Statement .qualifyAep := ⟨by decide, by decide, rfl⟩

theorem qualifyA : Statement .qualifyA := ⟨by decide, by decide, rfl⟩

theorem setfilter : Statement .setfilter := ⟨by decide, by decide, rfl⟩

theorem start : Statement .start := ⟨by decide, by decide, rfl⟩

theorem stop : Statement .stop := ⟨by decide, by decide, rfl⟩

end Sys2Proof.Laws.CommandWordShape
end

