-- ==== Sys2Proof/Laws/Wire.lean ====
section
/-! SUPPORT. The laws of the byte order and of the frame functions: lengths, bytes of a concatenation, and a field read
back from the bytes it was stored as. -/

namespace Sys2Proof.Machine

@[simp] theorem bytes16_length (v : Half) : (bytes16 v).length = 2 := rfl

@[simp] theorem bytes48_length (v : Addr) : (bytes48 v).length = 6 := rfl

theorem byteAt_append_left {a b : Frame} {i : Nat} (h : i < a.length) : byteAt (a ++ b) i = byteAt a i :=
  List.getD_append _ _ _ _ h

theorem byteAt_append_right (a b : Frame) (i : Nat) : byteAt (a ++ b) (a.length + i) = byteAt b i := by
  rw [byteAt, List.getD_append_right _ _ _ _ (Nat.le_add_right _ _), Nat.add_sub_cancel_left, byteAt]

theorem byteAt_drop (b : Frame) (n i : Nat) : byteAt (b.drop n) i = byteAt b (n + i) := by
  simp [byteAt, List.getD_eq_getElem?_getD, List.getElem?_drop]

theorem be16_append_right (a b : Frame) (i : Nat) : be16 (a ++ b) (a.length + i) = be16 b i := by
  simp only [be16, Nat.add_assoc, byteAt_append_right]

theorem be48_append_right (a b : Frame) (i : Nat) : be48 (a ++ b) (a.length + i) = be48 b i := by
  simp only [be48, Nat.add_assoc, byteAt_append_right]

/-- A 16-bit field's bytes read back as the field (R12). -/
theorem be16_bytes16 (v : Half) (rest : Frame) : be16 (bytes16 v ++ rest) 0 = v := by
  apply BitVec.eq_of_getLsbD_eq
  intro i hi
  simp only [be16, bytes16, byteAt, List.cons_append, List.getD_cons_zero, List.getD_cons_succ, zero_add]
  rw [BitVec.getLsbD_append]
  split_ifs with h <;>
    (rw [BitVec.getLsbD_extractLsb', decide_eq_true (by omega), Bool.true_and]; congr 1; omega)

/-- A 48-bit field's bytes read back as the field (R12). -/
theorem be48_bytes48 (v : Addr) (rest : Frame) : be48 (bytes48 v ++ rest) 0 = v := by
  apply BitVec.eq_of_getLsbD_eq
  intro i hi
  simp only [be48, bytes48, byteAt, List.cons_append, List.getD_cons_zero, List.getD_cons_succ, zero_add]
  iterate 5 rw [BitVec.getLsbD_append]
  split_ifs with h1 h2 h3 h4 h5 <;>
    (rw [BitVec.getLsbD_extractLsb', decide_eq_true (by omega), Bool.true_and]; congr 1; omega)

@[simp] theorem frameSlice_length (b : Frame) (off n : Nat) : (frameSlice b off n).length = min n (b.length - off) := by
  simp [frameSlice]

/-- A reply is as long as the frame it answers (R131). -/
theorem replyFn_length {b : Frame} (h : 12 ≤ b.length) : (replyFn b).length = b.length := by
  simp [replyFn]
  omega

/-- The addresses swapped, the rest copied: a frame given by its parts (R131). -/
theorem replyFn_append {d s : Frame} (r : Frame) (hd : d.length = 6) (hs : s.length = 6) :
    replyFn (d ++ s ++ r) = s ++ d ++ r := by
  have h1 : (d ++ (s ++ r)).drop 6 = s ++ r := by rw [← hd, List.drop_left]
  have h2 : (s ++ r).take 6 = s := by rw [← hs, List.take_left]
  have h3 : (d ++ (s ++ r)).take 6 = d := by rw [← hd, List.take_left]
  have h4 : (d ++ (s ++ r)).drop 12 = r := by
    rw [show (12 : Nat) = d.length + s.length by omega, ← List.append_assoc, ← List.length_append, List.drop_left]
  simp only [replyFn, frameSlice, List.append_assoc, h1, h2, h4, List.drop_zero, h3]

/-- A frame of 12 bytes or more is two addresses and a rest. -/
theorem frame_parts {b : Frame} (h : 12 ≤ b.length) :
    ∃ d s r : Frame, d.length = 6 ∧ s.length = 6 ∧ b = d ++ s ++ r := by
  refine ⟨b.take 6, (b.drop 6).take 6, b.drop 12, by simp; omega, by simp; omega, ?_⟩
  rw [List.append_assoc, show b.drop 12 = (b.drop 6).drop 6 by rw [List.drop_drop], List.take_append_drop,
    List.take_append_drop]

/-- `decodeFn` rejects exactly the frames shorter than 14 bytes (R101). -/
theorem decodeFn_short {b : Frame} (h : b.length < 14) : decodeFn b = .reject := if_pos h

theorem decodeFn_long {b : Frame} (h : 14 ≤ b.length) : decodeFn b = .parsed (parseFrame b) := if_neg (by simpa [Config.hdrUntagged] using h)

end Sys2Proof.Machine
end

