-- ==== Sys2Proof/Laws/Rules.lean ====
section
/-! SUPPORT. One lemma per command rule that says everything the rule can do: it faults on an unwritten operand it reads,
or its operands are all written and it answers what its rule in spec/ says of them. -/

namespace Sys2Proof.Machine

/-- A read of an operand register fails only when the register is unwritten, and names it (R24). -/
theorem need_cases {α : Type} (r : RegName) (o : Option α) :
    (o = none ∧ need r o = .error (.unwritten (.reg r))) ∨ ∃ v, o = some v ∧ need r o = .ok v := by
  cases o with
  | none => exact .inl ⟨rfl, rfl⟩
  | some v => exact .inr ⟨v, rfl, rfl⟩

/-- The read of the frame: a missing operand of any command that reads it, or the frame (R34). -/
theorem frameOperand_cases {i : Instr} (s : State) (hr : readsFrame i = true) (hm : .frameLen ∈ operandRegs i) :
    (∃ n, frameOperand s = .error (.unwritten n) ∧ MissingOperand i s n) ∨
    ∃ b, frameOperand s = .ok b ∧ HoldsFrame s b := by
  cases h : frameOperand s with
  | ok b => exact .inr ⟨b, rfl, (frameOperand_eq_ok_iff s b).mp h⟩
  | error e =>
    rcases frameOperand_error h with ⟨h1, rfl⟩ | ⟨n, k, h1, h2, h3, rfl⟩
    · exact .inl ⟨_, rfl, .inl ⟨_, hm, rfl, by simp [regRead, h1]⟩⟩
    · exact .inl ⟨_, rfl, .inr (.inl ⟨hr, n, k, h1, h2, h3, rfl⟩)⟩

/-- The read of the payload operand: a missing operand of any command that reads it, or the payload (R34). -/
theorem payloadOperand_cases {i : Instr} (s : State) (hr : readsPayload i = true) (hm : .opLen ∈ operandRegs i) :
    (∃ n, payloadOperand s = .error (.unwritten n) ∧ MissingOperand i s n) ∨
    ∃ p, payloadOperand s = .ok p ∧ HoldsPayload s p := by
  cases h : payloadOperand s with
  | ok b => exact .inr ⟨b, rfl, (payloadOperand_eq_ok_iff s b).mp h⟩
  | error e =>
    rcases payloadOperand_error h with ⟨h1, rfl⟩ | ⟨n, k, h1, h2, h3, rfl⟩
    · exact .inl ⟨_, rfl, .inl ⟨_, hm, rfl, by simp [regRead, h1]⟩⟩
    · exact .inl ⟨_, rfl, .inr (.inr ⟨hr, n, k, h1, h2, h3, rfl⟩)⟩

/-- An unwritten register among a command's operands is missing (R24). -/
theorem missing_reg {i : Instr} {s : State} {r : RegName} (hm : r ∈ operandRegs i) (h : regRead s r = none) :
    MissingOperand i s (.reg r) := .inl ⟨r, hm, rfl, h⟩

/-- A frame that is held has no unwritten byte. -/
theorem HoldsFrame_written {s : State} {b : Frame} (h : HoldsFrame s b) {n : Half} {k : Nat} (hn : s.frameLen = some n)
    (hk : k < n.toNat) : Memory.read s.frameBuf k ≠ none := by
  obtain ⟨m, h1, h2, h3⟩ := h
  rw [h1] at hn
  cases hn
  rw [h3 k (by omega), Ne, List.getElem?_eq_none_iff]
  omega

/-- A payload operand that is held has no unwritten byte. -/
theorem HoldsPayload_written {s : State} {p : Frame} (h : HoldsPayload s p) {n : Half} {k : Nat} (hn : s.opLen = some n)
    (hk : k < n.toNat) : Memory.read s.opBuf k ≠ none := by
  obtain ⟨m, h1, h2, h3⟩ := h
  rw [h1] at hn
  cases hn
  rw [h3 k (by omega), Ne, List.getElem?_eq_none_iff]
  omega

/-- Nothing is missing of a command whose operand registers are written and whose buffer operands are held (R213). -/
theorem nothing_missing {i : Instr} {s : State} (hr : ∀ r ∈ operandRegs i, regRead s r ≠ none)
    (hf : readsFrame i = true → ∃ b, HoldsFrame s b) (hp : readsPayload i = true → ∃ p, HoldsPayload s p) (name : CellName) :
    ¬MissingOperand i s name := by
  rintro (⟨r, hm, -, h⟩ | ⟨h, n, k, h1, h2, h3, -⟩ | ⟨h, n, k, h1, h2, h3, -⟩)
  · exact hr r hm h
  · obtain ⟨b, hb⟩ := hf h
    exact HoldsFrame_written hb h1 h2 h3
  · obtain ⟨p, hb⟩ := hp h
    exact HoldsPayload_written hb h1 h2 h3

/-- The register that holds a frame's length is written. -/
theorem HoldsFrame_regRead {s : State} {b : Frame} (h : HoldsFrame s b) : regRead s .frameLen = some b.length := by
  obtain ⟨n, h1, h2, -⟩ := h
  simp [regRead, h1, h2]

/-- The register that holds a payload's length is written. -/
theorem HoldsPayload_regRead {s : State} {p : Frame} (h : HoldsPayload s p) : regRead s .opLen = some p.length := by
  obtain ⟨n, h1, h2, -⟩ := h
  simp [regRead, h1, h2]

/-- ENCODE's rule (R102). -/
theorem encodeRule_cases (cap : Nat) (s : State) :
    (∃ n, encodeRule cap s = .error (.unwritten n) ∧ MissingOperand .encode s n) ∨
    ∃ dst src et p, s.opDst = some dst ∧ s.opSrc = some src ∧ s.opEtype = some et ∧ HoldsPayload s p ∧
      encodeRule cap s =
        if cap < 14 + p.length then .error (.refuse (.frameOverCapacity (14 + p.length)))
        else .ok (finishEncode (bytes48 dst ++ bytes48 src ++ bytes16 et ++ p) s) := by
  unfold encodeRule
  rcases need_cases .opDst s.opDst with ⟨h, e⟩ | ⟨dst, h1, e⟩ <;> rw [e]
  · exact .inl ⟨_, rfl, missing_reg (by decide) (by simp [regRead, h])⟩
  rcases need_cases .opSrc s.opSrc with ⟨h, e⟩ | ⟨src, h2, e⟩ <;> rw [except_bind_ok, e]
  · exact .inl ⟨_, rfl, missing_reg (by decide) (by simp [regRead, h])⟩
  rcases need_cases .opEtype s.opEtype with ⟨h, e⟩ | ⟨et, h3, e⟩ <;> rw [except_bind_ok, e]
  · exact .inl ⟨_, rfl, missing_reg (by decide) (by simp [regRead, h])⟩
  rcases payloadOperand_cases (i := .encode) s rfl (by decide) with ⟨n, e, h⟩ | ⟨p, e, h4⟩ <;> rw [except_bind_ok, e]
  · exact .inl ⟨_, rfl, h⟩
  exact .inr ⟨dst, src, et, p, h1, h2, h3, h4, rfl⟩

/-- ENCODE.V's rule (R103). -/
theorem encodeVRule_cases (cap : Nat) (s : State) :
    (∃ n, encodeVRule cap s = .error (.unwritten n) ∧ MissingOperand .encodeV s n) ∨
    ∃ dst src et v p, s.opDst = some dst ∧ s.opSrc = some src ∧ s.opEtype = some et ∧ s.opVlan = some v ∧
      HoldsPayload s p ∧
      encodeVRule cap s =
        if cap < 18 + p.length then .error (.refuse (.frameOverCapacity (18 + p.length)))
        else
          match encodeFn dst src et p (some v) with
          | .frame f => .ok (finishEncode f s)
          | .invalidVlanId => .ok (setStatus .invalidVlanId s) := by
  unfold encodeVRule
  rcases need_cases .opDst s.opDst with ⟨h, e⟩ | ⟨dst, h1, e⟩ <;> rw [e]
  · exact .inl ⟨_, rfl, missing_reg (by decide) (by simp [regRead, h])⟩
  rcases need_cases .opSrc s.opSrc with ⟨h, e⟩ | ⟨src, h2, e⟩ <;> rw [except_bind_ok, e]
  · exact .inl ⟨_, rfl, missing_reg (by decide) (by simp [regRead, h])⟩
  rcases need_cases .opEtype s.opEtype with ⟨h, e⟩ | ⟨et, h3, e⟩ <;> rw [except_bind_ok, e]
  · exact .inl ⟨_, rfl, missing_reg (by decide) (by simp [regRead, h])⟩
  rcases need_cases .opVlan s.opVlan with ⟨h, e⟩ | ⟨v, h4, e⟩ <;> rw [except_bind_ok, e]
  · exact .inl ⟨_, rfl, missing_reg (by decide) (by simp [regRead, h])⟩
  rcases payloadOperand_cases (i := .encodeV) s rfl (by decide) with ⟨n, e, h⟩ | ⟨p, e, h5⟩ <;> rw [except_bind_ok, e]
  · exact .inl ⟨_, rfl, h⟩
  exact .inr ⟨dst, src, et, v, p, h1, h2, h3, h4, h5, rfl⟩

/-- DECODE's rule (R104). -/
theorem decodeRule_cases (s : State) :
    (∃ n, decodeRule s = .error (.unwritten n) ∧ MissingOperand .decode s n) ∨
    ∃ b, HoldsFrame s b ∧ decodeRule s = .ok (writeResults (decodeFn b) s) := by
  unfold decodeRule
  rcases frameOperand_cases (i := .decode) s rfl (by decide) with ⟨n, e, h⟩ | ⟨b, e, h⟩ <;> rw [e]
  · exact .inl ⟨_, rfl, h⟩
  · exact .inr ⟨b, h, rfl⟩

/-- FILTER's rule (R132). -/
theorem filterRule_cases (s : State) :
    (∃ n, filterRule s = .error (.unwritten n) ∧ MissingOperand .filter s n) ∨
    ∃ b, HoldsFrame s b ∧ filterRule s = .ok (setStatus (statusOfFilter (filterFn b s.filterEtype)) s) := by
  unfold filterRule
  rcases frameOperand_cases (i := .filter) s rfl (by decide) with ⟨n, e, h⟩ | ⟨b, e, h⟩ <;> rw [e]
  · exact .inl ⟨_, rfl, h⟩
  · exact .inr ⟨b, h, rfl⟩

/-- SWAP's rule (R133). -/
theorem swapRule_cases (s : State) :
    (∃ n, swapRule s = .error (.unwritten n) ∧ MissingOperand .swap s n) ∨
    ∃ b, HoldsFrame s b ∧ swapRule s =
      if b.length < 14 then .ok (setStatus .reject s) else .ok (setStatus .ok (placeFrame (replyFn b) s)) := by
  unfold swapRule
  rcases frameOperand_cases (i := .swap) s rfl (by decide) with ⟨n, e, h⟩ | ⟨b, e, h⟩ <;> rw [e]
  · exact .inl ⟨_, rfl, h⟩
  · exact .inr ⟨b, h, rfl⟩

/-- SETFILTER's rule (R134). -/
theorem setfilterRule_cases (s : State) :
    (∃ n, setfilterRule s = .error (.unwritten n) ∧ MissingOperand .setfilter s n) ∨
    ∃ et, s.opEtype = some et ∧ setfilterRule s = .ok (setStatus .ok { s with filterEtype := et }) := by
  unfold setfilterRule
  rcases need_cases .opEtype s.opEtype with ⟨h, e⟩ | ⟨et, h1, e⟩ <;> rw [e]
  · exact .inl ⟨_, rfl, missing_reg (by decide) (by simp [regRead, h])⟩
  · exact .inr ⟨et, h1, rfl⟩

/-- QUALIFY.AE's rule (R172). -/
theorem qualifyAeRule_cases (s : State) :
    (∃ n, qualifyAeRule s = .error (.unwritten n) ∧ MissingOperand .qualifyAe s n) ∨
    ∃ b es ed ee, HoldsFrame s b ∧ s.opSrc = some es ∧ s.opDst = some ed ∧ s.opEtype = some ee ∧
      qualifyAeRule s = .ok (setStatus (statusOfVerdict (qualifyFn b es ed ee [] .ae)) s) := by
  unfold qualifyAeRule
  rcases frameOperand_cases (i := .qualifyAe) s rfl (by decide) with ⟨n, e, h⟩ | ⟨b, e, h1⟩ <;> rw [e]
  · exact .inl ⟨_, rfl, h⟩
  rcases need_cases .opSrc s.opSrc with ⟨h, e⟩ | ⟨es, h2, e⟩ <;> rw [except_bind_ok, e]
  · exact .inl ⟨_, rfl, missing_reg (by decide) (by simp [regRead, h])⟩
  rcases need_cases .opDst s.opDst with ⟨h, e⟩ | ⟨ed, h3, e⟩ <;> rw [except_bind_ok, e]
  · exact .inl ⟨_, rfl, missing_reg (by decide) (by simp [regRead, h])⟩
  rcases need_cases .opEtype s.opEtype with ⟨h, e⟩ | ⟨ee, h4, e⟩ <;> rw [except_bind_ok, e]
  · exact .inl ⟨_, rfl, missing_reg (by decide) (by simp [regRead, h])⟩
  exact .inr ⟨b, es, ed, ee, h1, h2, h3, h4, rfl⟩

/-- QUALIFY.AEP's rule (R174). -/
theorem qualifyAepRule_cases (s : State) :
    (∃ n, qualifyAepRule s = .error (.unwritten n) ∧ MissingOperand .qualifyAep s n) ∨
    ∃ b es ed ee ep, HoldsFrame s b ∧ s.opSrc = some es ∧ s.opDst = some ed ∧ s.opEtype = some ee ∧ HoldsPayload s ep ∧
      qualifyAepRule s = .ok (setStatus (statusOfVerdict (qualifyFn b es ed ee ep .aep)) s) := by
  unfold qualifyAepRule
  rcases frameOperand_cases (i := .qualifyAep) s rfl (by decide) with ⟨n, e, h⟩ | ⟨b, e, h1⟩ <;> rw [e]
  · exact .inl ⟨_, rfl, h⟩
  rcases need_cases .opSrc s.opSrc with ⟨h, e⟩ | ⟨es, h2, e⟩ <;> rw [except_bind_ok, e]
  · exact .inl ⟨_, rfl, missing_reg (by decide) (by simp [regRead, h])⟩
  rcases need_cases .opDst s.opDst with ⟨h, e⟩ | ⟨ed, h3, e⟩ <;> rw [except_bind_ok, e]
  · exact .inl ⟨_, rfl, missing_reg (by decide) (by simp [regRead, h])⟩
  rcases need_cases .opEtype s.opEtype with ⟨h, e⟩ | ⟨ee, h4, e⟩ <;> rw [except_bind_ok, e]
  · exact .inl ⟨_, rfl, missing_reg (by decide) (by simp [regRead, h])⟩
  rcases payloadOperand_cases (i := .qualifyAep) s rfl (by decide) with ⟨n, e, h⟩ | ⟨ep, e, h5⟩ <;> rw [except_bind_ok, e]
  · exact .inl ⟨_, rfl, h⟩
  exact .inr ⟨b, es, ed, ee, ep, h1, h2, h3, h4, h5, rfl⟩

/-- QUALIFY.A's rule (R176). -/
theorem qualifyARule_cases (s : State) :
    (∃ n, qualifyARule s = .error (.unwritten n) ∧ MissingOperand .qualifyA s n) ∨
    ∃ b es ed, HoldsFrame s b ∧ s.opSrc = some es ∧ s.opDst = some ed ∧
      qualifyARule s = .ok (setStatus (statusOfVerdict (qualifyFn b es ed 0#16 [] .a)) s) := by
  unfold qualifyARule
  rcases frameOperand_cases (i := .qualifyA) s rfl (by decide) with ⟨n, e, h⟩ | ⟨b, e, h1⟩ <;> rw [e]
  · exact .inl ⟨_, rfl, h⟩
  rcases need_cases .opSrc s.opSrc with ⟨h, e⟩ | ⟨es, h2, e⟩ <;> rw [except_bind_ok, e]
  · exact .inl ⟨_, rfl, missing_reg (by decide) (by simp [regRead, h])⟩
  rcases need_cases .opDst s.opDst with ⟨h, e⟩ | ⟨ed, h3, e⟩ <;> rw [except_bind_ok, e]
  · exact .inl ⟨_, rfl, missing_reg (by decide) (by simp [regRead, h])⟩
  exact .inr ⟨b, es, ed, h1, h2, h3, rfl⟩

/-- Everything a command that completes can do: the next states of all eleven rules. -/
theorem ownRule_effect {i : Instr} {s t : State} (h : ownRule i s = .ok t) :
    ((i = .encode ∨ i = .encodeV) ∧ ∃ f, f.length ≤ Config.bufCap ∧ t = finishEncode f s) ∨
    (i = .encodeV ∧ t = setStatus .invalidVlanId s) ∨
    (i = .decode ∧ ∃ b, HoldsFrame s b ∧ t = writeResults (decodeFn b) s) ∨
    (∃ c, (i = .filter ∨ i = .qualifyAe ∨ i = .qualifyAep ∨ i = .qualifyA ∨ i = .swap) ∧ t = setStatus c s) ∨
    (i = .swap ∧ ∃ b, HoldsFrame s b ∧ 14 ≤ b.length ∧ t = setStatus .ok (placeFrame (replyFn b) s)) ∨
    (i = .setfilter ∧ ∃ et, s.opEtype = some et ∧ t = setStatus .ok { s with filterEtype := et }) ∨
    (i = .start ∧ t = startRule s) ∨ (i = .stop ∧ t = stopRule s) := by
  cases i
  case encode =>
    rcases encodeRule_cases Config.bufCap s with ⟨n, e, -⟩ | ⟨d, sr, et, p, -, -, -, -, e⟩
    · simp only [ownRule, e] at h; cases h
    · simp only [ownRule, e] at h
      split_ifs at h with hc
      cases h
      exact .inl ⟨.inl rfl, _, by simp; omega, rfl⟩
  case encodeV =>
    rcases encodeVRule_cases Config.bufCap s with ⟨n, e, -⟩ | ⟨d, sr, et, v, p, -, -, -, -, -, e⟩
    · simp only [ownRule, e] at h; cases h
    · simp only [ownRule, e] at h
      split_ifs at h with hc
      simp only [encodeFn] at h
      split_ifs at h <;> cases h
      · exact .inr (.inl ⟨rfl, rfl⟩)
      · exact .inl ⟨.inr rfl, _, by simp; omega, rfl⟩
  case decode =>
    rcases decodeRule_cases s with ⟨n, e, -⟩ | ⟨b, hb, e⟩
    · simp only [ownRule, e] at h; cases h
    · simp only [ownRule, e] at h
      cases h
      exact .inr (.inr (.inl ⟨rfl, b, hb, rfl⟩))
  case filter =>
    rcases filterRule_cases s with ⟨n, e, -⟩ | ⟨b, hb, e⟩
    · simp only [ownRule, e] at h; cases h
    · simp only [ownRule, e] at h
      cases h
      exact .inr (.inr (.inr (.inl ⟨_, by simp, rfl⟩)))
  case swap =>
    rcases swapRule_cases s with ⟨n, e, -⟩ | ⟨b, hb, e⟩
    · simp only [ownRule, e] at h; cases h
    · simp only [ownRule, e] at h
      split_ifs at h <;> cases h
      · exact .inr (.inr (.inr (.inl ⟨_, by simp, rfl⟩)))
      · exact .inr (.inr (.inr (.inr (.inl ⟨rfl, b, hb, by omega, rfl⟩))))
  case qualifyAe =>
    rcases qualifyAeRule_cases s with ⟨n, e, -⟩ | ⟨b, es, ed, ee, -, -, -, -, e⟩
    · simp only [ownRule, e] at h; cases h
    · simp only [ownRule, e] at h
      cases h
      exact .inr (.inr (.inr (.inl ⟨_, by simp, rfl⟩)))
  case qualifyAep =>
    rcases qualifyAepRule_cases s with ⟨n, e, -⟩ | ⟨b, es, ed, ee, ep, -, -, -, -, -, e⟩
    · simp only [ownRule, e] at h; cases h
    · simp only [ownRule, e] at h
      cases h
      exact .inr (.inr (.inr (.inl ⟨_, by simp, rfl⟩)))
  case qualifyA =>
    rcases qualifyARule_cases s with ⟨n, e, -⟩ | ⟨b, es, ed, -, -, -, e⟩
    · simp only [ownRule, e] at h; cases h
    · simp only [ownRule, e] at h
      cases h
      exact .inr (.inr (.inr (.inl ⟨_, by simp, rfl⟩)))
  case setfilter =>
    simp only [ownRule, setfilterRule] at h
    obtain ⟨et, h1, h2⟩ := except_bind_eq_ok.mp h
    cases h2
    exact .inr (.inr (.inr (.inr (.inr (.inl ⟨rfl, et, (need_eq_ok_iff _ _ _).mp h1, rfl⟩)))))
  case start => cases h; simp
  case stop => cases h; simp

end Sys2Proof.Machine
end

