-- ==== Sys2Proof/Laws/Step.lean ====
section
/-! SUPPORT. What a HOST port operation, a MEDIUM event and a step can do, said once: everything a next state can be. -/

namespace Sys2Proof.Machine

/-- The register map and its inverse (R21). -/
@[simp] theorem regAt_regIndex (n : RegName) : regAt (regIndex n) = some n := by cases n <;> rfl

/-- A register's index is below `0x12` (R21). -/
theorem regIndex_lt (n : RegName) : regIndex n < 0x12 := by cases n <;> decide

/-- The register at an index is the one with that index (R21). -/
theorem regAt_eq_some {r : Nat} {n : RegName} (h : regAt r = some n) : regIndex n = r := by
  unfold regAt at h
  split at h <;> cases h <;> rfl

/-- No register stands at an index from `0x12` on (R21, R57). -/
theorem regAt_eq_none {r : Nat} : regAt r = none ↔ 0x12 ≤ r := by
  constructor
  · intro h
    by_contra hlt
    have all : ∀ k < 0x12, regAt k ≠ none := by decide
    exact all r (by omega) h
  · intro h
    cases hn : regAt r with
    | none => rfl
    | some n =>
      have h1 := regAt_eq_some hn
      have h2 := regIndex_lt n
      omega

/-- The write-only register is `CMD`, and it alone (R21). -/
theorem regAccess_cases (n : RegName) : n = .cmd ∨ regAccess n = .readOnly ∨ regAccess n = .readWrite := by
  cases n <;> decide

/-- The gate of commands is the table of R84. -/
theorem allowed_iff (i : Instr) (e : EngineState) : allowed i e = true ↔ AllowedIn i e := by
  cases i <;> cases e <;> simp [allowed, AllowedIn]

/-- A register write that passes every check of R25. -/
theorem checkWrite_ok {cap r v : Nat} {n : RegName} (h : checkWrite cap r v = .ok n) :
    regIndex n = r ∧ regAccess n ≠ .readOnly ∧ v < 2 ^ regWidth n ∧ (isLengthReg n = true → v ≤ cap) := by
  unfold checkWrite at h
  cases hr : regAt r with
  | none => rw [hr] at h; cases h
  | some m =>
    rw [hr] at h
    simp only at h
    split_ifs at h with h1 h2 h3
    cases h
    refine ⟨regAt_eq_some hr, h1, by omega, fun hl => ?_⟩
    simp only [hl, Bool.true_and, decide_eq_true_eq] at h3
    omega

/-- Everything the issue of a command word can do (R80): a refusal, a fault, or the command's own rule. -/
theorem issueCommand_cases {w : Word} {s t : State} (h : issueCommand w s = .next t) :
    (∃ m, t = recordRefusal m s) ∨ (∃ n, t = recordFault n s) ∨
    ∃ i, decodeWord w = .ok i ∧ AllowedIn i s.engine ∧ ownRule i s = .ok t := by
  unfold issueCommand at h
  cases hd : decodeWord w with
  | error e => rw [hd] at h; cases h; exact .inl ⟨_, rfl⟩
  | ok i =>
    rw [hd] at h
    simp only [exec_eq] at h
    rcases command_cases h with ⟨-, rfl⟩ | ⟨ha, h1 | ⟨n, -, rfl⟩ | ⟨m, -, rfl⟩⟩
    · exact .inl ⟨_, rfl⟩
    · exact .inr (.inr ⟨i, rfl, (allowed_iff _ _).mp ha, h1⟩)
    · exact .inr (.inl ⟨_, rfl⟩)
    · exact .inl ⟨_, rfl⟩

/-- What one HOST port operation can do to `s` and leave `t` (R25–R28, R80). -/
inductive HostEffect (op : HostOp) (s t : State) : Prop where
  | refusal (m : RefuseMark) (h : t = recordRefusal m s)
  | fault (n : CellName) (h : t = recordFault n s)
  | read (v : Nat) (h : t = giveHost v s)
  | register (n : RegName) (v : Nat) (ha : regAccess n = .readWrite) (hw : v < 2 ^ regWidth n)
      (hl : isLengthReg n = true → v ≤ Config.bufCap) (h : t = regWrite n v s)
  | byte (b : Buf) (i : Nat) (v : Byte) (hi : i < Config.bufCap) (h : t = setBuf b (Memory.write (bufOf b s) i v) s)
  | command (i : Instr) (v : Nat) (ho : op = .hwr 0x00 v) (hv : v < 2 ^ 32)
      (hd : decodeWord (BitVec.ofNat 32 v) = .ok i) (ha : AllowedIn i s.engine) (h : ownRule i s = .ok t)

/-- Every port operation answers a next state, and it is one of the effects. -/
theorem hostOp_effect {op : HostOp} {s t : State} (h : hostOp op s = .next t) : HostEffect op s t := by
  cases op with
  | hwr r v =>
    simp only [hostOp, portWrite] at h
    cases hc : checkWrite Config.bufCap r v with
    | error m => rw [hc] at h; cases h; exact .refusal m rfl
    | ok n =>
      rw [hc] at h
      obtain ⟨h1, h2, h3, h4⟩ := checkWrite_ok hc
      simp only at h
      split_ifs at h with hn
      · subst hn
        rcases issueCommand_cases h with ⟨m, rfl⟩ | ⟨n, rfl⟩ | ⟨i, hd, ha, h5⟩
        · exact .refusal m rfl
        · exact .fault n rfl
        · exact .command i v (by rw [← h1]; rfl) h3 hd ha h5
      · cases h
        rcases regAccess_cases n with h5 | h5 | h5
        · exact absurd h5 hn
        · exact absurd h5 h2
        · exact .register n v h5 h3 h4 rfl
  | hrd r =>
    simp only [hostOp, portRead, Host.Outcome.next.injEq] at h
    cases hr : regAt r with
    | none => rw [hr] at h; exact .refusal _ h.symm
    | some n =>
      rw [hr] at h
      simp only at h
      split_ifs at h with hn
      · exact .refusal _ h.symm
      · cases hv : regRead s n with
        | none => rw [hv] at h; exact .fault _ h.symm
        | some v => rw [hv] at h; exact .read v h.symm
  | hwb b i v =>
    simp only [hostOp, bufferWrite, Host.Outcome.next.injEq] at h
    split_ifs at h with h1 h2
    · exact .refusal _ h.symm
    · exact .refusal _ h.symm
    · exact .byte b i _ (by omega) h.symm
  | hrb b i =>
    simp only [hostOp, bufferRead, Host.Outcome.next.injEq] at h
    split_ifs at h with h1
    · exact .refusal _ h.symm
    · cases hv : Memory.read (bufOf b s) i with
      | none => rw [hv] at h; exact .fault _ h.symm
      | some v => rw [hv] at h; exact .read _ h.symm

/-- Every port operation answers a next state: a fault or a refusal of the spec is a mark in it (R39). -/
theorem hostOp_next (op : HostOp) (s : State) : ∃ t, hostOp op s = .next t := by
  cases op with
  | hwr r v =>
    simp only [hostOp, portWrite, issueCommand]
    cases checkWrite Config.bufCap r v with
    | error m => exact ⟨_, rfl⟩
    | ok n =>
      simp only
      split_ifs
      · cases decodeWord (BitVec.ofNat 32 v) with
        | error e => exact ⟨_, rfl⟩
        | ok i => exact exec_next i s
      · exact ⟨_, rfl⟩
  | hrd r => exact ⟨_, rfl⟩
  | hwb b i v => exact ⟨_, rfl⟩
  | hrb b i => exact ⟨_, rfl⟩

/-- What a step can do to `s` and leave `t`, up to what is to come. -/
inductive StepEffect (s t : State) : Prop where
  | nothing (h : t = { s with inputs := t.inputs })
  | refusal (m : RefuseMark) (h : t = recordRefusal m { s with inputs := t.inputs })
  | fault (n : CellName) (h : t = recordFault n { s with inputs := t.inputs })
  | read (v : Nat) (h : t = giveHost v { s with inputs := t.inputs })
  | register (n : RegName) (v : Nat) (ha : regAccess n = .readWrite) (hw : v < 2 ^ regWidth n)
      (hl : isLengthReg n = true → v ≤ Config.bufCap) (h : t = regWrite n v { s with inputs := t.inputs })
  | byte (b : Buf) (i : Nat) (v : Byte) (hi : i < Config.bufCap)
      (h : t = setBuf b (Memory.write (bufOf b s) i v) { s with inputs := t.inputs })
  | command (i : Instr) (u : State) (ins : List Input) (hc : IssuesCommand s i) (ha : AllowedIn i s.engine)
      (hu : ownRule i { s with inputs := ins } = .ok u) (h : t = { u with inputs := t.inputs })
  | receive (f : Frame) (hx : ∃ rest, s.inputs = .deliver f :: rest) (he : s.engine = .listen)
      (hf : f.length ≤ Config.bufCap) (h : t = rspRx f { s with inputs := t.inputs })
  | transmitted (a : TxAnswer) (r : Frame) (hx : ∃ rest, s.inputs = .answer a :: rest) (he : s.engine = .txWait)
      (hr : s.txPend = some r) (h : t = rspTxDone a r { s with inputs := t.inputs })
  | reset (hx : NextIsReset s) (h : t = resetEngine { s with inputs := t.inputs })

/-- The command a step runs is issued by its next event. -/
theorem issuesCommand_of {s : State} {op : HostOp} {e : Input} {rest : List Input} {i : Instr} {v : Nat}
    (hs : s.inputs = e :: rest) (ho : e = .host op ∨ ∃ more, e = .pseudo (op :: more)) (hop : op = .hwr 0x00 v)
    (hv : v < 2 ^ 32) (hd : decodeWord (BitVec.ofNat 32 v) = .ok i) : IssuesCommand s i := by
  subst hop
  refine ⟨v, rest, hv, hd, ?_⟩
  rcases ho with rfl | ⟨more, rfl⟩
  · exact .inl hs
  · exact .inr ⟨more, hs⟩

/-- A port operation that is the next event, alone or in a pseudo-instruction, is a step's effect. -/
theorem stepEffect_host {s u : State} {op : HostOp} {e : Input} {rest ins : List Input} (hs : s.inputs = e :: rest)
    (ho : e = .host op ∨ ∃ more, e = .pseudo (op :: more)) (hu : HostEffect op { s with inputs := rest } u) :
    StepEffect s { u with inputs := ins } := by
  cases hu with
  | refusal m h => subst h; exact .refusal m rfl
  | fault n h => subst h; exact .fault n rfl
  | read v h => subst h; exact .read v rfl
  | register n v ha hw hl h => subst h; refine .register n v ha hw hl ?_; cases n <;> rfl
  | byte b i v hi h => subst h; refine .byte b i v hi ?_; cases b <;> rfl
  | command i v hop hv hd ha h => exact .command i u rest (issuesCommand_of hs ho hop hv hd) ha h rfl

/-- The receive step takes nothing off what is to come. -/
theorem rspRx_inputs (f : Frame) (s : State) : (rspRx f s).inputs = s.inputs := by
  simp only [rspRx]
  split <;> rfl

/-- Everything a step can do. -/
theorem step_effect {s t : State} (h : step s = .next t) : StepEffect s t := by
  simp only [step, takeNext] at h
  split at h
  · cases h; exact .nothing rfl
  rename_i e rest hs
  cases e with
  | host op => exact stepEffect_host (ins := t.inputs) hs (.inl rfl) (hostOp_effect h)
  | pseudo ops =>
    cases ops with
    | nil => cases h; exact .nothing rfl
    | cons op more =>
      simp only [takeInput, runPseudo] at h
      obtain ⟨u, hu⟩ := hostOp_next op { s with inputs := rest }
      rw [hu] at h
      simp only [Host.Outcome.next.injEq] at h
      have key : t = { u with inputs := t.inputs } := by
        rw [← h]
        split_ifs
        · cases more <;> rfl
        · rfl
      rw [key]
      exact stepEffect_host hs (.inr ⟨_, rfl⟩) (hostOp_effect hu)
  | deliver f =>
    simp only [takeInput, takeDelivery] at h
    split at h
    · split_ifs at h with hf
      cases h
      refine .receive f ⟨_, hs⟩ ‹_› hf ?_
      rw [rspRx_inputs]
    all_goals cases h; exact .nothing rfl
  | answer a =>
    simp only [takeInput, takeAnswer, Host.Outcome.next.injEq] at h
    split at h
    · subst h; exact .transmitted a _ ⟨_, hs⟩ ‹_› ‹_› rfl
    · subst h; exact .nothing rfl
  | reset => cases h; exact .reset ⟨_, hs⟩ rfl

end Sys2Proof.Machine
end

