-- ==== Sys2Proof/Tests/Slice0.lean ====
section
/-! SUPPORT. The model's own tests. Every expected value is one of spec/ (95_test_vectors.md, or the rule named), and the
witnesses show that the hypotheses of each statement can be met, at the boundary values of each clause. -/

namespace Sys2Proof.Machine.Test

/-! ## Command words, written out bit by bit from 30_encoding.md R81, R82: `RSV` (22), `MOD` (2), `OPC` (8) -/

theorem test_word_encode : decodeWord 0b0000000000000000000000_00_00000001#32 = .ok .encode := by decide
theorem test_word_encodeV : decodeWord 0b0000000000000000000000_01_00000001#32 = .ok .encodeV := by decide
theorem test_word_decode : decodeWord 0b0000000000000000000000_00_00000010#32 = .ok .decode := by decide
theorem test_word_filter : decodeWord 0b0000000000000000000000_00_00000011#32 = .ok .filter := by decide
theorem test_word_swap : decodeWord 0b0000000000000000000000_00_00000100#32 = .ok .swap := by decide
theorem test_word_qualifyAe : decodeWord 0b0000000000000000000000_00_00000101#32 = .ok .qualifyAe := by decide
theorem test_word_qualifyAep : decodeWord 0b0000000000000000000000_01_00000101#32 = .ok .qualifyAep := by decide
theorem test_word_qualifyA : decodeWord 0b0000000000000000000000_10_00000101#32 = .ok .qualifyA := by decide
theorem test_word_setfilter : decodeWord 0b0000000000000000000000_00_00010000#32 = .ok .setfilter := by decide
theorem test_word_start : decodeWord 0b0000000000000000000000_00_00010001#32 = .ok .start := by decide
theorem test_word_stop : decodeWord 0b0000000000000000000000_00_00010010#32 = .ok .stop := by decide

/-- V-CMD-1 to V-CMD-7: each is refused by name. -/
theorem test_words_refused :
    decodeWord 0x00000000#32 = .error (.noSuchOpcode 0x00#8) ∧ decodeWord 0x00000006#32 = .error (.noSuchOpcode 0x06#8) ∧
    decodeWord 0x00000201#32 = .error (.reservedMode 0x01#8 2#2) ∧
    decodeWord 0x00000305#32 = .error (.reservedMode 0x05#8 3#2) ∧
    decodeWord 0x00000102#32 = .error (.reservedMode 0x02#8 1#2) ∧
    decodeWord 0x00000401#32 = .error (.reservedBits 1#22) ∧ decodeWord 0x00000013#32 = .error (.noSuchOpcode 0x13#8) := by
  decide

/-! ## The checks of well-formedness (R81, R83): one ill-formed word for each -/

theorem test_wf_rsv_refused : rsvClear (fieldsOf 0x00000401#32) = false := by decide
theorem test_wf_opcode_refused : opcodeDefined (fieldsOf 0x00000013#32) = false := by decide
theorem test_wf_mode_refused : modeDefined (fieldsOf 0x00000305#32) = false := by decide
theorem test_wf_encode_mode_refused : (fieldsOf 0x00000201#32).wellFormed = false := by decide
theorem test_wf_accepts : (fieldsOf 0x00000205#32).wellFormed = true := by decide

/-! ## Small states -/

/-- The addresses of 95_test_vectors.md's conventions, and the frame `F1`. -/
def addrA : Addr := 0xAABBCCDDEEFF#48

def addrB : Addr := 0x112233445566#48

def addrBc : Addr := 0xFFFFFFFFFFFF#48

def f1 : Frame :=
  [0xAA, 0xBB, 0xCC, 0xDD, 0xEE, 0xFF, 0x11, 0x22, 0x33, 0x44, 0x55, 0x66, 0x88, 0xB5, 0x68, 0x69]

/-- `replyFn F1` as V-SWP-1 writes it: the frame `G` of 2.7. -/
def frameG : Frame :=
  [0x11, 0x22, 0x33, 0x44, 0x55, 0x66, 0xAA, 0xBB, 0xCC, 0xDD, 0xEE, 0xFF, 0x88, 0xB5, 0x68, 0x69]

/-- The frame of V-DEC-6, V-DEC-4 and V-FLT-4. -/
def frameTagged : Frame :=
  [0xAA, 0xBB, 0xCC, 0xDD, 0xEE, 0xFF, 0x11, 0x22, 0x33, 0x44, 0x55, 0x66, 0x81, 0x00, 0xE0, 0x2A, 0x88, 0xB5]

def frameShortTag : Frame :=
  [0xAA, 0xBB, 0xCC, 0xDD, 0xEE, 0xFF, 0x11, 0x22, 0x33, 0x44, 0x55, 0x66, 0x81, 0x00, 0x12, 0x34]

def frameBroadcast : Frame :=
  [0xFF, 0xFF, 0xFF, 0xFF, 0xFF, 0xFF, 0x11, 0x22, 0x33, 0x44, 0x55, 0x66, 0x81, 0x00, 0xE0, 0x2A, 0x88, 0xB5, 0x68, 0x69]

/-- `s` holding the frame `b`. -/
def withFrame (b : Frame) (s : State) : State :=
  { s with frameLen := some (BitVec.ofNat 16 b.length), frameBuf := Memory.writeBytes s.frameBuf 0 b }

/-- `s` holding the payload operand `p`. -/
def withPayload (p : Frame) (s : State) : State :=
  { s with opLen := some (BitVec.ofNat 16 p.length), opBuf := Memory.writeBytes s.opBuf 0 p }

/-- `s` with the header operands of 2.1 and a VLAN id. -/
def withHeader (dst src : Addr) (et vlan : Half) (s : State) : State :=
  { s with opDst := some dst, opSrc := some src, opEtype := some et, opVlan := some vlan }

/-- `s` with these events to come. -/
def withInputs (is : List Input) (s : State) : State := { s with inputs := is }

/-- `s` in engine state `e`. -/
def inState (e : EngineState) (s : State) : State := { s with engine := e }

/-- `s` in `TX_WAIT` with the reply `r` pending. -/
def waiting (r : Frame) (s : State) : State := { s with engine := .txWait, txPend := some r }

/-- The next state of an outcome. -/
def nextOf (o : Host.Outcome State Fault Refusal) : Option State :=
  match o with
  | .next t => some t
  | .fault _ => none
  | .refused _ => none

/-- The first `n` bytes of the frame buffer. -/
def frameBytes (n : Nat) (s : State) : List (Option Byte) := (List.range n).map (Memory.read s.frameBuf)

/-! ## One step of each command (95_test_vectors.md part 2; ENCODE and ENCODE.V at `BUF_CAP` = 1500) -/

/-- V-ENC-1 with V-ENC-10: S1's frame, and the bytes above it are kept. -/
theorem test_encode_s1 :
    let s := withHeader addrA addrB 0x88B5 0 (withPayload [0x68, 0x69] (withFrame (List.replicate 20 0xEE) .reset))
    let t := settle s (encodeRule 1500 s)
    t.status = .ok ∧ t.frameLen = some 16#16 ∧ frameBytes 18 t = f1.map some ++ [some 0xEE, some 0xEE] := by decide

/-- V-ENC-4: the second payload byte is there, the third is not. -/
theorem test_encode_unwritten :
    let s := { withHeader addrA addrB 0x88B5 0 (withPayload [0x68, 0x69] .reset) with opLen := some 3#16 }
    settle s (encodeRule 1500 s) = { s with faults := [.unwrittenRead (.byte .op 2)] } := by decide

/-- V-ENV-6: one tag, then the EtherType `0x8100` of the operand. -/
theorem test_encodeV_double_tag :
    let s := withHeader addrA addrB 0x8100 5 (withPayload [0xDE, 0xAD] .reset)
    let t := settle s (encodeVRule 1500 s)
    t.status = .ok ∧ t.frameLen = some 20#16 ∧
      (frameBytes 20 t).drop 12 = ([0x81, 0x00, 0x00, 0x05, 0x81, 0x00, 0xDE, 0xAD] : Frame).map some := by decide

/-- V-ENV-4: only `STATUS` is written. -/
theorem test_encodeV_illegal_id :
    let s := withHeader addrA addrB 0x88B5 4096 (withPayload [] (withFrame f1 .reset))
    settle s (encodeVRule 1500 s) = { s with status := .invalidVlanId } := by decide

/-- V-DEC-6. -/
theorem test_decode_tagged :
    (nextOf (exec .decode (withFrame frameTagged .reset))).map (fun t =>
      (t.status, t.resDst, t.resSrc, t.resEtype, t.resTagged, t.resTci, t.resVid, t.resPoff, t.resPlen)) =
    some (.ok, some addrA, some addrB, some 0x88B5#16, some 1#1, some 0xE02A#16, some 42#12, some 18#16, some 0#16) := by
  decide

/-- V-DEC-4, after V-DEC-6 as in V-DEC-10: `RES_TCI` and `RES_VID` are unwritten again. -/
theorem test_decode_short_tag :
    (nextOf (exec .decode { withFrame frameShortTag .reset with resTci := some 0xE02A#16, resVid := some 42#12 })).map (fun t =>
      (t.status, t.resEtype, t.resTagged, t.resTci, t.resVid, t.resPoff, t.resPlen)) =
    some (.ok, some 0x8100#16, some 0#1, none, none, some 14#16, some 2#16) := by decide

/-- V-FLT-4: the inner EtherType decides. -/
theorem test_filter_tagged :
    exec .filter (withFrame frameBroadcast .reset) = .next { withFrame frameBroadcast .reset with status := .pass } := rfl

/-- V-FLT-6: a short frame with `81 00` is untagged, and passes the filter value `0x8100`. -/
theorem test_filter_8100 :
    (nextOf (exec .filter { withFrame frameShortTag .reset with filterEtype := 0x8100 })).map State.status = some .pass := by
  decide

/-- V-SWP-3: the priority bits are kept. -/
theorem test_swap_tagged :
    (nextOf (exec .swap (withFrame frameBroadcast .reset))).map (fun t => (t.status, frameBytes 20 t)) =
    some (.ok, ([0x11, 0x22, 0x33, 0x44, 0x55, 0x66, 0xFF, 0xFF, 0xFF, 0xFF, 0xFF, 0xFF, 0x81, 0x00, 0xE0, 0x2A, 0x88, 0xB5,
      0x68, 0x69] : Frame).map some) := by decide

/-- V-SWP-6. -/
theorem test_swap_short :
    nextOf (exec .swap (withFrame (f1.take 13) .reset)) = some { withFrame (f1.take 13) .reset with status := .reject } := by
  decide

/-- V-CFG-1. -/
theorem test_setfilter :
    (nextOf (exec .setfilter { State.reset with opEtype := some 0x0800 })).map (fun t => (t.filterEtype, t.status)) =
    some (0x0800, .ok) := by decide

/-- V-CFG-6: refused in `LISTEN`. -/
theorem test_setfilter_listen :
    (nextOf (exec .setfilter { inState .listen .reset with opEtype := some 0x0800 })).map (fun t =>
      (t.filterEtype, t.refused, t.refusals)) = some (0x88B5, true, [.commandInState .setfilter .listen]) := by decide

/-- V-CFG-4. -/
theorem test_start : nextOf (exec .start .reset) = some { State.reset with engine := .listen, status := .ok } := by decide

/-- V-CFG-7. -/
theorem test_stop :
    (nextOf (exec .stop .reset)).map (fun t => (t.engine, t.status, t.hist)) = some (.terminated, .ok, [.reset, .stopped]) := by
  decide

/-- V-RSP-6. -/
theorem test_stop_pending :
    (nextOf (exec .stop (waiting frameG .reset))).map (fun t => (t.engine, t.txPend, t.hist)) =
    some (.terminated, none, [.reset, .stopped]) := by decide

/-! The received frame is the swapped S1 frame with `OP_SRC` = `A` and `OP_DST` = `B`, as the examples of R172, R174 and R176
write it; 2.7's own words name the two addresses the other way round (log entry 22). -/

/-- R172's example, and V-QAE-7: AE does not read `OP_BUF`. -/
theorem test_qualifyAe :
    (nextOf (exec .qualifyAe (withHeader addrB addrA 0x88B5 0 (withFrame frameG .reset)))).map State.status = some .matched := by
  decide

/-- V-QAE-3: the destination differs. -/
theorem test_qualifyAe_destination :
    (nextOf (exec .qualifyAe (withHeader addrBc addrA 0x88B5 0 (withFrame frameG .reset)))).map State.status = some .nonqual := by
  decide

/-- R174's example (V-QAP-2) and V-QAP-3: a byte differs; the lengths differ. -/
theorem test_qualifyAep_mismatch :
    (nextOf (exec .qualifyAep (withPayload [0x68, 0x68] (withHeader addrB addrA 0x88B5 0 (withFrame frameG .reset))))).map
      State.status = some .mismatched ∧
    (nextOf (exec .qualifyAep (withPayload [0x68, 0x69]
      (withHeader addrB addrA 0x88B5 0 (withFrame (frameG ++ [0, 0]) .reset))))).map State.status = some .mismatched := by
  decide

/-- V-QAP-6: `OP_BUF` is read even for a frame that does not qualify. -/
theorem test_qualifyAep_unwritten :
    (nextOf (exec .qualifyAep { withPayload [0x68] (withHeader addrB addrB 0x88B5 0 (withFrame frameG .reset)) with
      opLen := some 2#16 })).map (fun t => (t.status, t.faults)) = some (.noneYet, [.unwrittenRead (.byte .op 1)]) := by decide

/-- V-QA-2: A does not read `OP_ETYPE`. -/
theorem test_qualifyA :
    (nextOf (exec .qualifyA { withHeader addrB addrA 0 0 (withFrame frameG .reset) with opEtype := none })).map State.status =
    some .matched := by decide

/-- R176's example: another EtherType is MATCHED by A. -/
theorem test_qualifyA_etype :
    (nextOf (exec .qualifyA (withHeader addrB addrA 0x88B5 0 (withFrame (frameG.take 12 ++ [0x08, 0x00, 0x68, 0x69]) .reset)))).map
      State.status = some .matched := by decide

/-! ## The port, the responder's steps, reset and the assembler -/

/-- V-PRT-1 to V-PRT-4, in one step each. -/
theorem test_port_refusals :
    [(0x01, 1), (0x12, 0), (0x06, 0x10000)].map (fun p =>
      (nextOf (step (withInputs [.host (.hwr p.1 p.2)] .reset))).map fun t => (t.refused, t.refusals)) =
    [some (true, [.writeToReadOnly .status]), some (true, [.noSuchRegister 0x12]),
      some (true, [.valueTooWide (.reg .opEtype) 0x10000])] ∧
    nextOf (step (withInputs [.host (.hrd 0x00)] .reset)) = some (recordRefusal (.readOfWriteOnly .cmd) .reset) := by decide

/-- V-PRT-7, V-PRT-8, V-PRT-9. -/
theorem test_port_reads :
    nextOf (step (withInputs [.host (.hrd 0x0A)] .reset)) = some (recordFault (.reg .resDst) .reset) ∧
    nextOf (step (withInputs [.host (.hrd 0x01)] .reset)) = some { State.reset with hostReads := [0] } := by decide

/-- V-CMD-8: in `LISTEN` the encoding is checked before the engine state. -/
theorem test_unknown_before_state :
    (nextOf (step (withInputs [.host (.hwr 0x00 0x00000006)] (inState .listen .reset)))).map State.refusals =
    some [.unknownCommand 0x00000006] := by decide

/-- A table row's word, placed by `withFetchWord` at reset, runs: SWAP (bits of R82) reads `FRAME_LEN` first. -/
theorem test_withFetchWord :
    decodeTableWord 32 0x00000004 = some .swap ∧
    nextOf (step (State.reset.withFetchWord 32 0x00000004)) = some (recordFault (.reg .frameLen) .reset) ∧
    (nextOf (step (State.reset.withFetchWord 32 0x00000011))).map State.engine = some .listen := by decide

/-- V-RSP-8: the looped-back reply is answered with `F1`. -/
theorem test_filter_then_reply : filterFn frameG 0x88B5 = .pass ∧ replyFn frameG = f1 ∧ replyFn f1 = frameG := by decide

/-- V-RSP-5. -/
theorem test_txfail :
    nextOf (step (withInputs [.answer .fail] (waiting frameG .reset))) =
    some { State.reset with engine := .listen, hist := [.reset, .txFail frameG] } := by decide

/-- P6's reset: `H` gains `RESET`, `FAULTS` is kept. -/
theorem test_reset_step :
    nextOf (step (withInputs [.reset] { inState .terminated .reset with faults := [.unwrittenRead (.reg .frameLen)] })) =
    some { State.reset with hist := [.reset, .reset], faults := [.unwrittenRead (.reg .frameLen)] } := by decide

/-- Lines of P1, P3, P4 and P5, with their port encodings. -/
theorem test_assembler :
    readLine "LDPAY 0x68, 0x69".toList = .stmt (.ldPay [0x68, 0x69]) ∧
    stmtInput (.ldPay [0x68, 0x69]) = .pseudo [.hwr 0x08 2, .hwb .op 0 0x68, .hwb .op 1 0x69] ∧
    readLine "ENCODE.V ; S2".toList = .stmt (.command .encodeV) ∧
    stmtInput (.command .encodeV) = .host (.hwr 0x00 0x00000101) ∧
    readLine "HRB FRAME_BUF, 15".toList = .stmt (.hrb .frame 15) := by decide

/-- P1's `LDHDR` and P3's `@RX`. -/
theorem test_assembler_addresses :
    readLine "LDHDR aa:bb:cc:dd:ee:ff, 11:22:33:44:55:66, 0x88B5".toList =
      .stmt (.ldHdr 0xAABBCCDDEEFF 0x112233445566 0x88B5) ∧
    readLine "@RX 01 02 0A".toList = .stmt (.rx [0x01, 0x02, 0x0A]) ∧ readLine "HWB OP_BUF, 0, x".toList = .malformed := by
  decide

/-! ## Witnesses: the hypotheses of the statements can be met, at the boundary values of each clause -/

theorem withFrame_holds (b : Frame) (s : State) (h : b.length ≤ 65535) : HoldsFrame (withFrame b s) b := by
  refine ⟨BitVec.ofNat 16 b.length, rfl, ?_, fun i hi => Memory.read_writeBytes_of_lt _ _ hi⟩
  rw [BitVec.toNat_ofNat]
  exact Nat.mod_eq_of_lt (by omega)

theorem withPayload_holds (p : Frame) (s : State) (h : p.length ≤ 65535) : HoldsPayload (withPayload p s) p := by
  refine ⟨BitVec.ofNat 16 p.length, rfl, ?_, fun i hi => Memory.read_writeBytes_of_lt _ _ hi⟩
  rw [BitVec.toNat_ofNat]
  exact Nat.mod_eq_of_lt (by omega)

/-- A frame of `n` bytes. -/
def zeros (n : Nat) : Frame := List.replicate n 0

theorem zeros_length (n : Nat) : (zeros n).length = n := List.length_replicate

/-- The state of 2.1 with a payload operand of `n` bytes. -/
def encodeState (n : Nat) (vlan : Half) : State := withPayload (zeros n) (withHeader addrA addrB 0x88B5 vlan .reset)

theorem encodeState_holds {n : Nat} (vlan : Half) (h : n ≤ Config.bufCap) :
    HoldsPayload (encodeState n vlan) (zeros n) := by
  have := Config.bufCap_le
  exact withPayload_holds _ _ (by rw [zeros_length]; omega)

/-- Each kind of word that R83 lists, at the ends of its range (O3). -/
theorem witness_ReservedWordsRefused :
    ∀ w ∈ [0x00000000#32, 0x00000006#32, 0x0000000F#32, 0x00000013#32, 0x000000FF#32, 0x00000201#32, 0x00000301#32,
      0x00000305#32, 0x00000102#32, 0x00000312#32, 0x00000401#32, 0xFFFFFFFF#32],
    ReservedWord w ∧ (withInputs [.host (.hwr 0x00 w.toNat)] State.reset).inputs = .host (.hwr 0x00 w.toNat) :: [] := by
  intro w hw
  refine ⟨?_, rfl⟩
  fin_cases hw <;> simp only [ReservedWord] <;> decide

/-- O5, and O4's rows. -/
theorem witness_StepRunsDecodedCommand :
    (withInputs [.host (.hwr 0x00 (0x00000012#32).toNat)] State.reset).inputs = [.host (.hwr 0x00 (0x00000012#32).toNat)] ∧
    decodeWord 0x00000012#32 = .ok .stop ∧ decodeTableWord 32 0x00000205 = some .qualifyA := by decide

/-- O6, O7: both rows of R84's table, and both ends of what it refuses. -/
theorem witness_CommandsAllowedByState :
    AllowedIn .encode .idle ∧ AllowedIn .stop .listen ∧ AllowedIn .stop .txWait ∧
    ¬AllowedIn .encode .listen ∧ ¬AllowedIn .start .txWait ∧ ¬AllowedIn .stop .terminated := by
  simp only [AllowedIn]
  decide

/-- Every command that reads an operand finds one unwritten after reset (O7 and FaultsOnUnwritten). -/
theorem witness_FaultsOnUnwritten (i : Instr) (h1 : i ≠ .start) (h2 : i ≠ .stop) :
    State.reset.engine = .idle ∧ ∃ name, MissingOperand i State.reset name := by
  refine ⟨rfl, ?_⟩
  cases i <;> first | exact absurd rfl h1 | exact absurd rfl h2 | exact ⟨_, .inl ⟨_, List.mem_cons_self, rfl, rfl⟩⟩

/-- An unwritten byte below the length is a missing operand too (V-DEC-9). -/
theorem witness_FaultsOnUnwritten_byte :
    MissingOperand .decode { withFrame (f1.take 15) .reset with frameLen := some 16#16 } (.byte .frame 15) :=
  .inr (.inl ⟨rfl, 16#16, 15, rfl, by decide, by decide, rfl⟩)

/-- Outside `IDLE` (RefusedOutsideIdle). -/
theorem witness_RefusedOutsideIdle : (inState .listen State.reset).engine ≠ .idle := by decide

/-- With every operand written nothing is missing (O7), at the greatest length that fits and one byte more. -/
theorem witness_CommandPriority (n : Nat) (h : n = Config.bufCap - 14 ∨ n = Config.bufCap - 13) :
    AllowedIn .encode (encodeState n 0).engine ∧ (¬∃ name, MissingOperand .encode (encodeState n 0) name) ∧
    encodedLength .encode (encodeState n 0) = some (14 + n) := by
  have h1 := Config.bufCap_le
  have h2 := Config.bufCap_ge
  have hp := encodeState_holds (n := n) 0 (by omega)
  refine ⟨.inl rfl, ?_, ?_⟩
  · rintro ⟨name, hm⟩
    refine nothing_missing (fun r hr => ?_) (fun h => by cases h) (fun _ => ⟨_, hp⟩) name hm
    simp only [operandRegs, List.mem_cons, List.not_mem_nil, or_false] at hr
    rcases hr with rfl | rfl | rfl | rfl <;> simp [regRead, encodeState, withPayload, withHeader]
  · have : (zeros n).length ≤ Config.bufCap := by rw [zeros_length]; omega
    simp only [encodedLength, encodeState, withPayload, Option.map_some, Config.toNat_length this]
    rw [zeros_length]

theorem witness_CommandPriority_lengths :
    14 + (Config.bufCap - 14) ≤ Config.bufCap ∧ Config.bufCap < 14 + (Config.bufCap - 13) := by
  have := Config.bufCap_ge
  omega

/-- O8: the greatest legal VLAN id, and the least illegal one. -/
theorem witness_EncodeFnLayout : (4095#16).toNat ≤ 4095 ∧ 4095 < (4096#16).toNat := by decide

/-- O9, O10, O15, O18: 13 bytes; 14 and 17 bytes with `81 00`; 18 bytes with it and without it. -/
theorem witness_frames :
    (f1.take 13).length = 13 ∧ (frameTagged.take 14).length = 14 ∧ (frameTagged.take 17).length = 17 ∧
    be16 (frameTagged.take 17) 12 = 0x8100#16 ∧ frameTagged.length = 18 ∧ be16 frameTagged 12 = 0x8100#16 ∧
    (f1 ++ [0, 0]).length = 18 ∧ be16 (f1 ++ [0, 0]) 12 ≠ 0x8100#16 := by decide

/-- O21: V-SWP-4's frame, with equal addresses. -/
theorem witness_SwapFollowsItsRule_equal :
    let b : Frame := f1.take 6 ++ f1.take 6 ++ [0x88, 0xB5]
    b.length = 14 ∧ be48 b 0 = be48 b 6 ∧ replyFn b = b := by decide

/-- O11, O38, O39: a frame of each form. -/
theorem witness_DecodedEtypeAndPayload :
    decodeFn (f1.take 13) = .reject ∧ decodeFn f1 = .parsed ⟨addrA, addrB, false, none, 0x88B5#16, 14, 2⟩ ∧
    decodeFn frameTagged = .parsed ⟨addrA, addrB, true, some 0xE02A#16, 0x88B5#16, 18, 0⟩ := by decide

/-- O13, O16: the operands of ENCODE, with the payload that just fits and the one that just does not. -/
theorem witness_EncodeFollowsItsRule (n : Nat) (h : n = Config.bufCap - 14 ∨ n = Config.bufCap - 13) :
    let s := encodeState n 0
    s.engine = .idle ∧ s.opDst = some addrA ∧ s.opSrc = some addrB ∧ s.opEtype = some 0x88B5#16 ∧
    HoldsPayload s (zeros n) ∧ (n = Config.bufCap - 14 → 14 + (zeros n).length ≤ Config.bufCap) ∧
    (n = Config.bufCap - 13 → Config.bufCap < 14 + (zeros n).length) := by
  have := Config.bufCap_ge
  rw [zeros_length]
  exact ⟨rfl, rfl, rfl, rfl, encodeState_holds 0 (by omega), by omega, by omega⟩

/-- O14, O17: the operands of ENCODE.V, with any VLAN id: `witness_EncodeFnLayout` has the greatest legal one and the
least illegal one. -/
theorem witness_EncodeVFollowsItsRule (n : Nat) (v : Half)
    (h : n = Config.bufCap - 18 ∨ n = Config.bufCap - 17) :
    let s := encodeState n v
    s.engine = .idle ∧ s.opDst = some addrA ∧ s.opSrc = some addrB ∧ s.opEtype = some 0x88B5#16 ∧ s.opVlan = some v ∧
    HoldsPayload s (zeros n) ∧ (n = Config.bufCap - 18 → 18 + (zeros n).length ≤ Config.bufCap) ∧
    (n = Config.bufCap - 17 → Config.bufCap < 18 + (zeros n).length) := by
  have := Config.bufCap_ge
  rw [zeros_length]
  exact ⟨rfl, rfl, rfl, rfl, rfl, encodeState_holds v (by omega), by omega, by omega⟩

/-- O16's second clause at its least payload, and the first clause with EtherType `0x8100` at its greatest. -/
theorem witness_UntaggedRoundTrip (p : Frame) (hp : p = [0x00, 0x2A, 0x08, 0x00] ∨ p = [0x01, 0x02, 0x03]) :
    let s := withPayload p (withHeader addrA addrB 0x8100 0 .reset)
    s.engine = .idle ∧ s.opEtype = some 0x8100#16 ∧ HoldsPayload s p ∧ 14 + p.length ≤ Config.bufCap ∧
    (p.length < 4 ∨ 4 ≤ p.length) := by
  have := Config.bufCap_ge
  rcases hp with rfl | rfl <;> exact ⟨rfl, rfl, withPayload_holds _ _ (by decide), by simp; omega, by decide⟩

/-- O15, O18, O20, O21, O35 to O37: a held frame in `IDLE`, of 13 bytes, of 14, and a tagged one; O18's other buffer. -/
theorem witness_HoldsFrame :
    ∀ b ∈ [f1.take 13, f1.take 14, f1, frameTagged, frameTagged.take 17],
    (withFrame b State.reset).engine = .idle ∧ HoldsFrame (withFrame b State.reset) b ∧
    ∀ a, a < b.length → Memory.read (Memory.write (withFrame b State.reset).frameBuf b.length 0xFF) a =
      Memory.read (withFrame b State.reset).frameBuf a := by
  intro b hb
  refine ⟨rfl, withFrame_holds b _ ?_, fun a ha => Memory.read_write_other _ _ (by omega)⟩
  fin_cases hb <;> decide

/-- O19: a successful ENCODE and a successful ENCODE.V, of an empty payload. -/
theorem witness_EncodeLengthAndPayloadOffset :
    (∃ t, exec .encode (encodeState 0 0) = .next t ∧ SameMarks (encodeState 0 0) t ∧ t.status = .ok) ∧
    ∃ t, exec .encodeV (encodeState 0 4095) = .next t ∧ SameMarks (encodeState 0 4095) t ∧ t.status = .ok := by
  have h := Config.bufCap_ge
  have h1 : ¬Config.bufCap < 14 := by omega
  have h2 : ¬Config.bufCap < 18 := by omega
  constructor
  · refine ⟨finishEncode (bytes48 addrA ++ bytes48 addrB ++ bytes16 0x88B5 ++ []) (encodeState 0 0), ?_, ⟨rfl, rfl, rfl, rfl, rfl⟩, rfl⟩
    rw [exec_idle _ rfl]
    simp only [ownRule, encodeRule, (payloadOperand_eq_ok_iff _ _).mpr (encodeState_holds 0 (Nat.zero_le _))]
    simp [encodeState, withPayload, withHeader, zeros, h1, encodeFn]
  · refine ⟨finishEncode (bytes48 addrA ++ bytes48 addrB ++ bytes16 0x8100 ++ bytes16 4095 ++ bytes16 0x88B5 ++ [])
      (encodeState 0 4095), ?_, ⟨rfl, rfl, rfl, rfl, rfl⟩, rfl⟩
    rw [exec_idle _ rfl]
    simp only [ownRule, encodeVRule, (payloadOperand_eq_ok_iff _ _).mpr (encodeState_holds 4095 (Nat.zero_le _))]
    simp [encodeState, withPayload, withHeader, zeros, h2, encodeFn]
    decide

/-- O20, O26: a frame that passes the reset filter value, and one that does not. -/
theorem witness_effectiveEtype :
    effectiveEtype f1 = some State.reset.filterEtype ∧ effectiveEtype frameBroadcast = some State.reset.filterEtype ∧
    effectiveEtype (f1.take 12 ++ [0x08, 0x00]) = some 0x0800#16 ∧ 0x0800#16 ≠ State.reset.filterEtype := by decide

/-- O22, O25: SETFILTER's operand, and the value `0x8100`. -/
theorem witness_SetfilterFollowsItsRule :
    ({ State.reset with opEtype := some 0x8100#16 } : State).engine = .idle ∧
    ({ State.reset with opEtype := some 0x8100#16 } : State).opEtype = some 0x8100#16 := ⟨rfl, rfl⟩

/-- O25's two kinds of frame. -/
theorem witness_FilterValue8100 :
    filterFn (frameShortTag.take 14) 0x8100#16 = .pass ∧ filterFn (frameShortTag ++ [0x56]) 0x8100#16 = .pass ∧
    filterFn (frameTagged.take 16 ++ [0x81, 0x00]) 0x8100#16 = .pass ∧ filterFn frameTagged 0x8100#16 = .skip := by decide

/-- O23, O24: the four engine states. -/
theorem witness_StartFollowsItsRule :
    State.reset.engine = .idle ∧ (inState .listen State.reset).engine ≠ .idle ∧
    (inState .terminated State.reset).engine = .terminated ∧ (waiting frameG State.reset).engine ≠ .terminated := by decide

/-- O24: in `TERMINATED`, the reset that leaves it and a read of a register. -/
theorem witness_StopFollowsItsRule :
    (nextOf (step (withInputs [.reset] (inState .terminated State.reset)))).map State.engine ≠ some .terminated ∧
    (withInputs [.host (.hrd (regIndex .state))] (inState .terminated State.reset)).inputs =
      .host (.hrd (regIndex .state)) :: [] ∧
    RegName.state ≠ .cmd ∧ regRead (inState .terminated State.reset) .state = some 3 := by decide

/-- O26, O28: a delivery in `LISTEN`, of a frame of 13 bytes, of a passing frame, and of the longest frame there is. -/
theorem witness_ReceiveStep :
    ∀ f ∈ [f1.take 13, f1, zeros Config.bufCap],
    (withInputs [.deliver f] (inState .listen State.reset)).inputs = .deliver f :: [] ∧
    (withInputs [.deliver f] (inState .listen State.reset)).engine = .listen ∧ f.length ≤ Config.bufCap := by
  have := Config.bufCap_ge
  intro f hf
  refine ⟨rfl, rfl, ?_⟩
  simp only [List.mem_cons, List.not_mem_nil, or_false] at hf
  rcases hf with rfl | rfl | rfl
  · exact le_trans (by decide) this
  · exact le_trans (by decide) this
  · rw [zeros_length]

/-- O27, O28: an answer in `TX_WAIT`. -/
theorem witness_TransmitResultStep (a : TxAnswer) :
    let s := withInputs [.answer a] (waiting frameG State.reset)
    s.engine = .txWait ∧ s.txPend = some frameG ∧ s.inputs = .answer a :: [] := ⟨rfl, rfl, rfl⟩

/-- O28: two states that agree on what a responder step reads and on nothing else. -/
theorem witness_ResponderTouchesOnlyItsState :
    let s := withInputs [.deliver f1] (inState .listen State.reset)
    let u := withInputs [.deliver f1, .reset] (inState .listen (withFrame frameG (withHeader addrB addrA 0 7 State.reset)))
    s.inputs = .deliver f1 :: [] ∧ u.inputs = .deliver f1 :: [.reset] ∧ u.engine = s.engine ∧ u.filterEtype = s.filterEtype ∧
    u.txPend = s.txPend ∧ step s = .next (rspRx f1 (inState .listen State.reset)) := by
  have := Config.bufCap_ge
  have h : f1.length ≤ Config.bufCap := le_trans (by decide) this
  refine ⟨rfl, rfl, rfl, rfl, rfl, ?_⟩
  simp [step, takeNext, withInputs, inState, takeInput, takeDelivery, h, State.reset]

/-- O29, O30: the shortest frame that has a reply. -/
theorem witness_ReplySymmetry :
    14 ≤ (f1.take 14).length ∧ (withFrame (f1.take 14) State.reset).engine = .idle ∧
    HoldsFrame (withFrame (f1.take 14) State.reset) (f1.take 14) :=
  ⟨by decide, rfl, withFrame_holds _ _ (by decide)⟩

/-- O31: V-RSP-8. -/
theorem witness_LoopedBackReplyIsEchoed :
    let s := withInputs [.deliver (replyFn f1)] (inState .listen State.reset)
    s.inputs = .deliver (replyFn f1) :: [] ∧ s.engine = .listen ∧ f1.length ≤ Config.bufCap ∧
    effectiveEtype f1 = some s.filterEtype :=
  ⟨rfl, rfl, le_trans (by decide) Config.bufCap_ge, by decide⟩

/-- O32: two frames that differ in every address, in the VLAN id and in the payload. -/
theorem witness_FilterReadsTheEtypeAlone :
    let g : Frame := frameG.take 12 ++ [0x81, 0x00, 0x00, 0x07, 0x88, 0xB5]
    g.length = frameTagged.length ∧ be16 g 12 = be16 frameTagged 12 ∧ 18 ≤ frameTagged.length ∧
    be16 frameTagged 12 = 0x8100#16 ∧ be16 g 16 = be16 frameTagged 16 ∧ g ≠ frameTagged := by decide

/-- O33: V-RSP-10, an answer nobody waits for, and V-RSP-12. -/
theorem witness_EventsThatAreNotEnabled :
    (withInputs [.deliver f1] (waiting frameG State.reset)).inputs = .deliver f1 :: [] ∧
    (waiting frameG State.reset).engine ≠ .listen ∧
    (withInputs [.answer .ok] State.reset).inputs = .answer .ok :: [] ∧ State.reset.engine ≠ .txWait ∧
    (inState .listen State.reset).inputs = [] := by decide

/-- O34: the shortest frame that is too long. -/
theorem witness_OversizeDeliveryStops :
    let f := zeros (Config.bufCap + 1)
    let s := withInputs [.deliver f] (inState .listen State.reset)
    s.inputs = .deliver f :: [] ∧ s.engine = .listen ∧ Config.bufCap < f.length :=
  ⟨rfl, rfl, by rw [zeros_length]; omega⟩

/-- O35 to O37: the operands of the three QUALIFY commands, and a frame that qualifies, one that does not, one of 13 bytes. -/
theorem witness_QualifyFollowsItsRule :
    ∀ b ∈ [f1, frameG, f1.take 13],
    let s := withPayload [0x68, 0x69] (withHeader addrA addrB 0x88B5 0 (withFrame b State.reset))
    s.engine = .idle ∧ HoldsFrame s b ∧ s.opSrc = some addrB ∧ s.opDst = some addrA ∧ s.opEtype = some 0x88B5#16 ∧
    HoldsPayload s [0x68, 0x69] := by
  intro b hb
  refine ⟨rfl, withFrame_holds b _ ?_, rfl, rfl, rfl, withPayload_holds _ _ (by decide)⟩
  fin_cases hb <;> decide

theorem witness_QualifyFollowsItsRule_verdicts :
    (14 ≤ f1.length ∧ be48 f1 6 = addrB ∧ be48 f1 0 = addrA ∧ effectiveEtype f1 = some 0x88B5#16) ∧
    framePayload f1 = some [0x68, 0x69] ∧ framePayload (f1 ++ [0, 0]) ≠ some [0x68, 0x69] ∧
    ¬(14 ≤ frameG.length ∧ be48 frameG 6 = addrB ∧ be48 frameG 0 = addrA) ∧
    ¬(14 ≤ (f1.take 13).length ∧ be48 (f1.take 13) 6 = addrB ∧ be48 (f1.take 13) 0 = addrA) := by decide

/-- O39: frames that qualify, with an equal payload, a longer one and one of another byte. -/
theorem witness_PayloadEqualityIsExact :
    qualifyFn f1 addrB addrA 0x88B5 [0x68, 0x69] .aep = .matched ∧
    qualifyFn (f1 ++ [0, 0]) addrB addrA 0x88B5 [0x68, 0x69] .aep = .mismatched ∧
    qualifyFn f1 addrB addrA 0x88B5 [0x68, 0x68] .aep = .mismatched := by decide

/-- O40: `F1` and the same frame with a tag (V-QAE-6 on `F1`). -/
theorem witness_TagTakesNoPartInQualification :
    let c : Frame := f1.take 12 ++ [0x81, 0x00, 0x00, 0x07] ++ f1.drop 12
    14 ≤ f1.length ∧ 14 ≤ c.length ∧ be48 f1 0 = be48 c 0 ∧ be48 f1 6 = be48 c 6 ∧
    effectiveEtype f1 = effectiveEtype c ∧ framePayload f1 = framePayload c := by decide

/-- O41's first clause: a command changes `STATUS`. -/
theorem witness_HostRegisterWrite_command :
    (nextOf (step (withInputs [.host (.hwr 0x00 0x11)] State.reset))).map State.status = some .ok ∧
    State.reset.status = .noneYet := by decide

/-- O41, O42: a port register access of every kind is the next event. -/
theorem witness_HostRegisterWrite (r v : Nat) :
    (withInputs [.host (.hwr r v)] State.reset).inputs = .host (.hwr r v) :: [] ∧
    (withInputs [.host (.hrd r)] State.reset).inputs = .host (.hrd r) :: [] := ⟨rfl, rfl⟩

/-- O41's clauses at their ends: the first index that does not exist, a read-only register, the greatest value that fits
and the least that does not, and a length at `BUF_CAP` and above it. -/
theorem witness_HostRegisterWrite_clauses :
    regIndex .resPlen + 1 = 0x12 ∧ regAccess .status = .readOnly ∧ regAccess .cmd ≠ .readOnly ∧
    (regIndex .cmd = 0x00 ∧ 2 ^ 32 - 1 < 2 ^ regWidth .cmd ∧ 2 ^ regWidth .cmd ≤ 2 ^ 32) ∧
    regAccess .opDst = .readWrite ∧ 0xFFFFFFFFFFFF < 2 ^ regWidth .opDst ∧ 2 ^ regWidth .opDst ≤ 0x1000000000000 ∧
    regAccess .opLen = .readWrite := by decide

theorem witness_HostRegisterWrite_lengths :
    Config.bufCap < 2 ^ regWidth .opLen ∧ ¬((RegName.opLen = .opLen ∨ RegName.opLen = .frameLen) ∧ Config.bufCap < Config.bufCap) ∧
    (Config.bufCap < 65535 → Config.bufCap + 1 < 2 ^ regWidth .frameLen) := by
  have := Config.bufCap_le
  refine ⟨?_, fun h => absurd h.2 (Nat.lt_irrefl _), fun _ => ?_⟩ <;> (simp only [regWidth]; omega)

/-- O42: an unwritten register and a written one. -/
theorem witness_HostRegisterRead :
    RegName.resDst ≠ .cmd ∧ regRead State.reset .resDst = none ∧ regRead State.reset .filterEtype = some 0x88B5 := by decide

/-- O43, O44: the last index of a buffer and the first that is not one, the greatest byte and the least value that is not
one, an unwritten byte and a written one. -/
theorem witness_HostBufferWrite :
    Config.bufCap - 1 < Config.bufCap ∧ Config.bufCap ≤ Config.bufCap ∧ 255 ≤ 0xFF ∧ 0xFF < 256 ∧
    Memory.read (bufOf .op State.reset) (Config.bufCap - 1) = none ∧
    Memory.read (bufOf .op (setBuf .op (Memory.write [] (Config.bufCap - 1) 0x55) State.reset)) (Config.bufCap - 1) =
      some 0x55 := by
  have := Config.bufCap_ge
  exact ⟨by omega, le_refl _, by decide, by decide, rfl, Memory.read_write_same _ _ _⟩

theorem witness_HostBufferWrite_inputs (b : Buf) (i v : Nat) :
    (withInputs [.host (.hwb b i v)] State.reset).inputs = .host (.hwb b i v) :: [] ∧
    (withInputs [.host (.hrb b i)] State.reset).inputs = .host (.hrb b i) :: [] := ⟨rfl, rfl⟩

/-- O45: a length register at `BUF_CAP`, and the last byte of a buffer. -/
theorem witness_HostReadsWhatHostWrote :
    regAccess .frameLen = .readWrite ∧ Config.bufCap < 2 ^ regWidth .frameLen ∧
    (isLengthReg .frameLen = true → Config.bufCap ≤ Config.bufCap) ∧
    (withInputs [.host (.hwr (regIndex .frameLen) Config.bufCap), .host (.hrd (regIndex .frameLen))] State.reset).inputs =
      .host (.hwr (regIndex .frameLen) Config.bufCap) :: .host (.hrd (regIndex .frameLen)) :: [] ∧
    Config.bufCap - 1 < Config.bufCap ∧ 255 ≤ 0xFF ∧
    (withInputs [.host (.hwb .op (Config.bufCap - 1) 255), .host (.hrb .op (Config.bufCap - 1))] State.reset).inputs =
      .host (.hwb .op (Config.bufCap - 1) 255) :: .host (.hrb .op (Config.bufCap - 1)) :: [] := by
  have h := Config.bufCap_ge
  have h' := Config.bufCap_le
  exact ⟨rfl, by simp only [regWidth]; omega, fun _ => le_refl _, rfl, by omega, by decide, rfl⟩

/-- O46. -/
theorem witness_StateAndStatusReadAsTheirCodes :
    (withInputs [.host (.hrd 0x02)] (waiting frameG State.reset)).inputs = .host (.hrd 0x02) :: [] ∧
    (withInputs [.host (.hrd 0x01)] State.reset).inputs = .host (.hrd 0x01) :: [] := ⟨rfl, rfl⟩

/-- O47: as many bytes as fit, and one more. -/
theorem witness_PseudoInstructionsExpand (n : Nat) :
    (withInputs [stmtInput (.ldFrame (List.replicate n 255))] State.reset).inputs =
      stmtInput (.ldFrame (List.replicate n 255)) :: [] ∧ (∀ v ∈ List.replicate n 255, v ≤ 0xFF) ∧
    (n = Config.bufCap → (List.replicate n 255).length ≤ Config.bufCap) ∧
    (n = Config.bufCap + 1 → Config.bufCap < (List.replicate n 255).length) := by
  refine ⟨rfl, fun v hv => by rw [List.eq_of_mem_replicate hv], ?_, ?_⟩ <;> (rw [List.length_replicate]; omega)

/-- O47: an expansion's statement that is refused, one that is not and is the last, and one that is not the last. -/
theorem witness_PseudoInstructionsExpand_steps :
    ((nextOf (step (withInputs [.host (.hwr 0x01 0)] State.reset))).map State.refusals ≠ some State.reset.refusals) ∧
    (nextOf (step (withInputs [.host (.hwr 0x06 0)] State.reset))).map State.refusals = some State.reset.refusals ∧
    (withInputs [.pseudo [.hwr 0x06 0]] State.reset).inputs = .pseudo (.hwr 0x06 0 :: []) :: [] ∧
    (withInputs [.pseudo [.hwr 0x06 0, .hrd 0x06]] State.reset).inputs = .pseudo (.hwr 0x06 0 :: [.hrd 0x06]) :: [] := by
  decide

/-- A run's state with a reply pending, its history, and MEDIUM's answer to come. -/
def busyState : State :=
  withInputs [.answer .ok] { waiting frameG State.reset with hist := [.reset, .rx f1, .tx frameG] }

/-- O48 to O55: a reset, a step that leaves a mark, and a step from a state in `TX_WAIT` that meets every invariant. -/
theorem witness_steps :
    (withInputs [.reset] (inState .terminated State.reset)).inputs = .reset :: [] ∧
    step (withInputs [.host (.hrd 0x0A)] State.reset) = .next (recordFault (.reg .resDst) State.reset) ∧
    (recordFault (.reg .resDst) State.reset).faults ≠ State.reset.faults ∧
    step busyState = .next (rspTxDone .ok frameG { busyState with inputs := [] }) := by
  refine ⟨rfl, rfl, by decide, rfl⟩

theorem witness_Inv : Inv busyState := by
  refine ⟨⟨List.Pairwise.nil, fun c hc => (List.not_mem_nil hc).elim, List.Pairwise.nil,
    fun c hc => (List.not_mem_nil hc).elim⟩, ⟨fun n h => ?_, fun n h => ?_⟩, by unfold PendingOk; decide, .inl (by decide),
    by unfold RefusedOk; decide, by decide, ⟨some frameG, none⟩, ?_, ?_⟩
  · cases h
  · cases h
  · decide
  · rfl

/-- O52: the invariants' bounds are met by a state with both lengths at `BUF_CAP` and both last bytes written. -/
theorem witness_BuffersAndLengthsKept :
    let m : Memory := [(Config.bufCap - 1, 0x55)]
    let s : State := { State.reset with
      frameLen := some (BitVec.ofNat 16 Config.bufCap), opLen := some (BitVec.ofNat 16 Config.bufCap), frameBuf := m, opBuf := m,
      inputs := [.reset] }
    BuffersOk s ∧ LengthsOk s ∧ step s = .next (resetEngine { s with inputs := [] }) := by
  have h := Config.bufCap_ge
  have hw : Memory.within Config.bufCap [(Config.bufCap - 1, (0x55 : Byte))] := by
    intro c hc
    rw [List.mem_singleton] at hc
    subst hc
    show Config.bufCap - 1 < Config.bufCap
    omega
  have hl : ∀ n, some (BitVec.ofNat 16 Config.bufCap) = some n → n.toNat ≤ Config.bufCap := by
    rintro n hn
    rw [← Option.some.inj hn, Config.toNat_length (le_refl _)]
  exact ⟨⟨List.pairwise_singleton _ _, hw, List.pairwise_singleton _ _, hw⟩, ⟨hl, hl⟩, rfl⟩

/-- O53: the result registers of a tagged frame, of an untagged one, and of none. -/
theorem witness_ResultRegistersConsistent :
    ResultsOk (writeResults (decodeFn frameTagged) State.reset) ∧ ResultsOk (writeResults (decodeFn f1) State.reset) ∧
    ResultsOk State.reset :=
  ⟨.inr ⟨rfl, rfl, rfl, rfl, .inl ⟨rfl, rfl, _, rfl, rfl⟩⟩, .inr ⟨rfl, rfl, rfl, rfl, .inr ⟨rfl, rfl, rfl, rfl⟩⟩,
    .inl ⟨rfl, rfl, rfl, rfl, rfl, rfl, rfl, rfl⟩⟩

/-- O56: SETFILTER in `IDLE` changes the filter value. -/
theorem witness_FilterFixedOnceStarted :
    let s := withInputs [.host (.hwr 0x00 0x10)] { State.reset with opEtype := some 0x0800 }
    step s = .next { State.reset with opEtype := some 0x0800, filterEtype := 0x0800, status := .ok } ∧
    ({ State.reset with opEtype := some 0x0800, filterEtype := 0x0800, status := .ok } : State).filterEtype ≠ s.filterEtype ∧
    IssuesCommand s .setfilter := ⟨rfl, by decide, 0x10, [], by decide, by decide, .inl rfl⟩

/-- O57: a step of each kind changes `STATE`. -/
theorem witness_EngineStateTransitions :
    [withInputs [.reset] (inState .listen State.reset), withInputs [.host (.hwr 0x00 0x11)] State.reset,
      withInputs [.pseudo [.hwr 0x00 0x12]] (inState .listen State.reset), busyState].map
        (fun s => (s.engine, (nextOf (step s)).map State.engine)) =
    [(.listen, some .idle), (.idle, some .listen), (.listen, some .terminated), (.txWait, some .listen)] := by decide

/-- O58, O59: DECODE in `IDLE` changes a result register and `STATUS`, and marks nothing. -/
theorem witness_ResultsChangeOnlyAtDecode :
    let s := withInputs [.host (.hwr 0x00 0x02)] (withFrame f1 State.reset)
    let t := writeResults (decodeFn f1) (withFrame f1 State.reset)
    step s = .next t ∧ ¬SameResults s t ∧ t.status ≠ s.status ∧
    exec .decode (withFrame f1 State.reset) = .next t ∧ SameMarks (withFrame f1 State.reset) t := by
  refine ⟨rfl, fun h => ?_, by decide, rfl, rfl, rfl, rfl, rfl, rfl⟩
  exact absurd h.1 (by decide)

/-- O60: two buffers that differ only at the lengths. -/
theorem witness_BytesAboveTheLengthNotRead :
    let s := withPayload [0x68, 0x69] (withFrame f1 State.reset)
    (∀ n a, s.frameLen = some n → a < n.toNat →
      Memory.read (Memory.write s.frameBuf 16 0xFF) a = Memory.read s.frameBuf a) ∧
    (∀ n a, s.opLen = some n → a < n.toNat → Memory.read (Memory.write s.opBuf 2 0xFF) a = Memory.read s.opBuf a) ∧
    Memory.read (Memory.write s.frameBuf 16 0xFF) 16 ≠ Memory.read s.frameBuf 16 := by
  refine ⟨fun n a hn ha => Memory.read_write_other _ _ ?_, fun n a hn ha => Memory.read_write_other _ _ ?_, by decide⟩
  · cases hn
    exact Nat.ne_of_lt ha
  · cases hn
    exact Nat.ne_of_lt ha

end Sys2Proof.Machine.Test
end

section
/-! PROOFS. The state statements of 10_state.md: the host port (O41–O44), the marks (O50), `TX_PEND` (O51) and
`FILTER_ETYPE` (O56). The laws of the port and of a step that they need stand first, each stated once. -/

namespace Sys2Proof.Machine

/-! ### The next event, and the checks of a register write -/

/-- A step takes the first event that is to come (R59). -/
theorem step_of_inputs {s : State} {e : Input} {rest : List Input} (hs : s.inputs = e :: rest) :
    step s = takeInput e { s with inputs := rest } := by
  simp only [step, takeNext, hs]

/-- A step whose next event is a port operation is that operation (R25–R28). -/
theorem step_host {s : State} {op : HostOp} {rest : List Input} (hs : s.inputs = .host op :: rest) :
    step s = hostOp op { s with inputs := rest } :=
  step_of_inputs hs

theorem step_hrd {s t : State} {r : Nat} {rest : List Input} (hs : s.inputs = .host (.hrd r) :: rest)
    (h : portRead r { s with inputs := rest } = t) : step s = .next t :=
  (step_host hs).trans (congrArg Host.Outcome.next h)

theorem step_hwb {s t : State} {b : Buf} {i v : Nat} {rest : List Input} (hs : s.inputs = .host (.hwb b i v) :: rest)
    (h : bufferWrite b i v { s with inputs := rest } = t) : step s = .next t :=
  (step_host hs).trans (congrArg Host.Outcome.next h)

theorem step_hrb {s t : State} {b : Buf} {i : Nat} {rest : List Input} (hs : s.inputs = .host (.hrb b i) :: rest)
    (h : bufferRead b i { s with inputs := rest } = t) : step s = .next t :=
  (step_host hs).trans (congrArg Host.Outcome.next h)

/-- The checks of a write to register `n`, in R25's order. -/
theorem checkWrite_regIndex (cap : Nat) (n : RegName) (v : Nat) :
    checkWrite cap (regIndex n) v =
      if regAccess n = .readOnly then .error (.writeToReadOnly n)
      else if 2 ^ regWidth n ≤ v then .error (.valueTooWide (.reg n) v)
      else if isLengthReg n && decide (cap < v) then .error (.lengthOverCapacity n v)
      else .ok n := by
  simp only [checkWrite, regAt_regIndex]

/-- The registers bounded by `BUF_CAP` are the two lengths (R25). -/
theorem isLengthReg_iff (n : RegName) : isLengthReg n = true ↔ n = .opLen ∨ n = .frameLen := by
  cases n <;> decide

theorem checkWrite_noSuchRegister (cap : Nat) {r : Nat} (v : Nat) (h : 0x12 ≤ r) :
    checkWrite cap r v = .error (.noSuchRegister r) := by
  simp only [checkWrite, regAt_eq_none.mpr h]

theorem checkWrite_readOnly (cap : Nat) {n : RegName} (v : Nat) (h : regAccess n = .readOnly) :
    checkWrite cap (regIndex n) v = .error (.writeToReadOnly n) := by
  rw [checkWrite_regIndex, if_pos h]

theorem checkWrite_tooWide (cap : Nat) {n : RegName} {v : Nat} (ha : regAccess n ≠ .readOnly) (hv : 2 ^ regWidth n ≤ v) :
    checkWrite cap (regIndex n) v = .error (.valueTooWide (.reg n) v) := by
  rw [checkWrite_regIndex, if_neg ha, if_pos hv]

theorem checkWrite_overCapacity {cap : Nat} {n : RegName} {v : Nat} (ha : regAccess n ≠ .readOnly)
    (hv : v < 2 ^ regWidth n) (hn : n = .opLen ∨ n = .frameLen) (hc : cap < v) :
    checkWrite cap (regIndex n) v = .error (.lengthOverCapacity n v) := by
  rw [checkWrite_regIndex, if_neg ha, if_neg (by omega), if_pos (by simp [(isLengthReg_iff n).mpr hn, hc])]

/-- A write that fails no check of R25 is accepted. -/
theorem checkWrite_accepted {cap : Nat} {n : RegName} {v : Nat} (ha : regAccess n ≠ .readOnly)
    (hv : v < 2 ^ regWidth n) (hc : ¬((n = .opLen ∨ n = .frameLen) ∧ cap < v)) :
    checkWrite cap (regIndex n) v = .ok n := by
  rw [checkWrite_regIndex, if_neg ha, if_neg (by omega), if_neg]
  rwa [Bool.and_eq_true, isLengthReg_iff, decide_eq_true_eq]

/-! ### The port operations, a clause each -/

theorem hostOp_hwr_refused {r v : Nat} {m : RefuseMark} (s : State) (h : checkWrite Config.bufCap r v = .error m) :
    hostOp (.hwr r v) s = .next (recordRefusal m s) := by
  simp only [hostOp, portWrite, h]

/-- An accepted write of `CMD` issues the command (R25, R80). -/
theorem hostOp_hwr_cmd {r v : Nat} (s : State) (h : checkWrite Config.bufCap r v = .ok .cmd) :
    hostOp (.hwr r v) s = issueCommand (BitVec.ofNat 32 v) s := by
  simp only [hostOp, portWrite, h, if_true]

theorem hostOp_hwr_register {r v : Nat} {n : RegName} (s : State) (h : checkWrite Config.bufCap r v = .ok n)
    (hn : n ≠ .cmd) : hostOp (.hwr r v) s = .next (regWrite n v s) := by
  simp only [hostOp, portWrite, h, if_neg hn]

theorem portRead_noSuchRegister {r : Nat} (s : State) (h : 0x12 ≤ r) :
    portRead r s = recordRefusal (.noSuchRegister r) s := by
  simp only [portRead, regAt_eq_none.mpr h]

theorem portRead_cmd (s : State) : portRead (regIndex .cmd) s = recordRefusal (.readOfWriteOnly .cmd) s := rfl

theorem portRead_unwritten {s : State} {n : RegName} (hn : n ≠ .cmd) (h : regRead s n = none) :
    portRead (regIndex n) s = recordFault (.reg n) s := by
  simp only [portRead, regAt_regIndex, if_neg hn, h]

theorem portRead_written {s : State} {n : RegName} {v : Nat} (hn : n ≠ .cmd) (h : regRead s n = some v) :
    portRead (regIndex n) s = giveHost v s := by
  simp only [portRead, regAt_regIndex, if_neg hn, h]

theorem bufferWrite_overCapacity (b : Buf) {i : Nat} (v : Nat) (s : State) (h : Config.bufCap ≤ i) :
    bufferWrite b i v s = recordRefusal (.indexOverCapacity b i) s := if_pos h

theorem bufferWrite_tooWide (b : Buf) {i v : Nat} (s : State) (hi : i < Config.bufCap) (hv : 0xFF < v) :
    bufferWrite b i v s = recordRefusal (.valueTooWide (.buf b) v) s := by
  rw [bufferWrite, if_neg (by omega), if_pos hv]

theorem bufferWrite_accepted (b : Buf) {i v : Nat} (s : State) (hi : i < Config.bufCap) (hv : v ≤ 0xFF) :
    bufferWrite b i v s = setBuf b (Memory.write (bufOf b s) i (BitVec.ofNat 8 v)) s := by
  rw [bufferWrite, if_neg (by omega), if_neg (by omega)]

theorem bufferRead_overCapacity (b : Buf) {i : Nat} (s : State) (h : Config.bufCap ≤ i) :
    bufferRead b i s = recordRefusal (.indexOverCapacity b i) s := if_pos h

theorem bufferRead_unwritten {b : Buf} {i : Nat} {s : State} (hi : i < Config.bufCap)
    (h : Memory.read (bufOf b s) i = none) : bufferRead b i s = recordFault (.byte b i) s := by
  simp only [bufferRead, if_neg (Nat.not_le.mpr hi), h]

theorem bufferRead_written {b : Buf} {i : Nat} {s : State} {v : Byte} (hi : i < Config.bufCap)
    (h : Memory.read (bufOf b s) i = some v) : bufferRead b i s = giveHost v.toNat s := by
  simp only [bufferRead, if_neg (Nat.not_le.mpr hi), h]

/-! ### What a register and a byte read as after a write -/

/-- The register HOST wrote holds the value, which fits its width (R25). -/
theorem regRead_regWrite_same {n : RegName} {v : Nat} (s : State) (ha : regAccess n = .readWrite)
    (hv : v < 2 ^ regWidth n) : regRead (regWrite n v s) n = some v := by
  cases n <;> cases ha <;> exact congrArg some (Nat.mod_eq_of_lt hv)

theorem regWrite_opDst_other {n : RegName} (v : Nat) (s : State) (h : .opDst ≠ n) :
    (regWrite n v s).opDst = s.opDst := by cases n <;> trivial
theorem regWrite_opSrc_other {n : RegName} (v : Nat) (s : State) (h : .opSrc ≠ n) :
    (regWrite n v s).opSrc = s.opSrc := by cases n <;> trivial
theorem regWrite_opEtype_other {n : RegName} (v : Nat) (s : State) (h : .opEtype ≠ n) :
    (regWrite n v s).opEtype = s.opEtype := by cases n <;> trivial
theorem regWrite_opVlan_other {n : RegName} (v : Nat) (s : State) (h : .opVlan ≠ n) :
    (regWrite n v s).opVlan = s.opVlan := by cases n <;> trivial
theorem regWrite_opLen_other {n : RegName} (v : Nat) (s : State) (h : .opLen ≠ n) :
    (regWrite n v s).opLen = s.opLen := by cases n <;> trivial
theorem regWrite_frameLen_other {n : RegName} (v : Nat) (s : State) (h : .frameLen ≠ n) :
    (regWrite n v s).frameLen = s.frameLen := by cases n <;> trivial

/-- Every other register reads as before (R25). -/
theorem regRead_regWrite_other {m n : RegName} (v : Nat) (s : State) (h : m ≠ n) :
    regRead (regWrite n v s) m = regRead s m := by
  cases m <;> simp [regRead, h, regWrite_opDst_other, regWrite_opSrc_other, regWrite_opEtype_other,
    regWrite_opVlan_other, regWrite_opLen_other, regWrite_frameLen_other]

theorem bufOf_setBuf_other {b c : Buf} (m : Memory) (s : State) (h : c ≠ b) : bufOf c (setBuf b m s) = bufOf c s := by
  cases b <;> cases c <;> trivial

/-- Every byte but the written one reads as before, in both buffers (R27). -/
theorem read_setBuf_write_other {b c : Buf} {i a : Nat} (v : Byte) (s : State) (h : ¬(c = b ∧ a = i)) :
    Memory.read (bufOf c (setBuf b (Memory.write (bufOf b s) i v) s)) a = Memory.read (bufOf c s) a := by
  by_cases hc : c = b
  · subst hc
    rw [bufOf_setBuf, Memory.read_write_other _ _ fun ha => h ⟨rfl, ha⟩]
  · rw [bufOf_setBuf_other _ _ hc]

/-- A buffer's replacement leaves all but the buffers as it was (R27). -/
theorem setBuf_frame (b : Buf) (m : Memory) (s : State) :
    setBuf b m s = { s with frameBuf := (setBuf b m s).frameBuf, opBuf := (setBuf b m s).opBuf } := by
  cases b <;> rfl

/-! ### What a step keeps -/

/-- The receive step records the frame alone, or takes a reply into `TX_PEND` as well (R141). -/
theorem rspRx_cases (f : Frame) (s : State) :
    rspRx f s = emit (.rx f) s ∨
    rspRx f s = { emit (.tx (replyFn f)) (emit (.rx f) s) with txPend := some (replyFn f), engine := .txWait } := by
  rw [rspRx]
  cases filterFn f s.filterEtype with
  | reject => exact .inl rfl
  | skip => exact .inl rfl
  | pass => exact .inr rfl

@[simp] theorem rspRx_status (f : Frame) (s : State) : (rspRx f s).status = s.status := by
  rcases rspRx_cases f s with h | h <;> rw [h] <;> rfl

@[simp] theorem rspRx_filterEtype (f : Frame) (s : State) : (rspRx f s).filterEtype = s.filterEtype := by
  rcases rspRx_cases f s with h | h <;> rw [h] <;> rfl

@[simp] theorem rspRx_faults (f : Frame) (s : State) : (rspRx f s).faults = s.faults := by
  rcases rspRx_cases f s with h | h <;> rw [h] <;> rfl

@[simp] theorem rspRx_refused (f : Frame) (s : State) : (rspRx f s).refused = s.refused := by
  rcases rspRx_cases f s with h | h <;> rw [h] <;> rfl

@[simp] theorem rspRx_refusals (f : Frame) (s : State) : (rspRx f s).refusals = s.refusals := by
  rcases rspRx_cases f s with h | h <;> rw [h] <;> rfl

/-- A command that completes records no mark, hands HOST nothing and takes no event (R39). -/
theorem ownRule_sameMarks {i : Instr} {s t : State} (h : ownRule i s = .ok t) : SameMarks s t := by
  rcases ownRule_effect h with ⟨-, f, -, rfl⟩ | ⟨-, rfl⟩ | ⟨-, b, -, rfl⟩ | ⟨c, -, rfl⟩ | ⟨-, b, -, -, rfl⟩ |
    ⟨-, et, -, rfl⟩ | ⟨-, rfl⟩ | ⟨-, rfl⟩
  · exact ⟨rfl, rfl, rfl, rfl, rfl⟩
  · exact ⟨rfl, rfl, rfl, rfl, rfl⟩
  · simp [SameMarks]
  all_goals exact ⟨rfl, rfl, rfl, rfl, rfl⟩

/-- A command that completes writes `STATE` or `TX_PEND` only if it is START or STOP (R136, R137). -/
theorem ownRule_control {i : Instr} {s t : State} (h : ownRule i s = .ok t) :
    (t.engine = s.engine ∧ t.txPend = s.txPend) ∨ (i = .start ∧ t = startRule s) ∨ (i = .stop ∧ t = stopRule s) := by
  rcases ownRule_effect h with ⟨-, f, -, rfl⟩ | ⟨-, rfl⟩ | ⟨-, b, -, rfl⟩ | ⟨c, -, rfl⟩ | ⟨-, b, -, -, rfl⟩ |
    ⟨-, et, -, rfl⟩ | h | h
  · exact .inl ⟨rfl, rfl⟩
  · exact .inl ⟨rfl, rfl⟩
  · exact .inl ⟨by simp, by simp⟩
  · exact .inl ⟨rfl, rfl⟩
  · exact .inl ⟨rfl, rfl⟩
  · exact .inl ⟨rfl, rfl⟩
  · exact .inr (.inl h)
  · exact .inr (.inr h)

/-- A command that completes writes `FILTER_ETYPE` only if it is SETFILTER, which makes it `OP_ETYPE` (R134). -/
theorem ownRule_filterEtype {i : Instr} {s t : State} (h : ownRule i s = .ok t) :
    t.filterEtype = s.filterEtype ∨ (i = .setfilter ∧ s.opEtype = some t.filterEtype) := by
  rcases ownRule_effect h with ⟨-, f, -, rfl⟩ | ⟨-, rfl⟩ | ⟨-, b, -, rfl⟩ | ⟨c, -, rfl⟩ | ⟨-, b, -, -, rfl⟩ |
    ⟨hi, et, he, rfl⟩ | ⟨-, rfl⟩ | ⟨-, rfl⟩
  · exact .inl rfl
  · exact .inl rfl
  · exact .inl (by simp)
  · exact .inl rfl
  · exact .inl rfl
  · exact .inr ⟨hi, he⟩
  · exact .inl rfl
  · exact .inl rfl

/-- What a step records: no mark at all, one refusal, or one fault; a marked step does nothing else (R39). -/
theorem step_marks {s t : State} (h : step s = .next t) :
    (t.faults = s.faults ∧ t.refused = s.refused ∧ t.refusals = s.refusals) ∨
    (∃ m, t = recordRefusal m { s with inputs := t.inputs }) ∨ ∃ n, t = recordFault n { s with inputs := t.inputs } := by
  cases step_effect h with
  | refusal m h => exact .inr (.inl ⟨m, h⟩)
  | fault n h => exact .inr (.inr ⟨n, h⟩)
  | command i u ins hc ha hu h =>
    obtain ⟨hf, hr, hm, -, -⟩ := ownRule_sameMarks hu
    rw [h]
    exact .inl ⟨hf, hr, hm⟩
  | nothing h => rw [h]; exact .inl ⟨rfl, rfl, rfl⟩
  | read v h => rw [h]; exact .inl ⟨rfl, rfl, rfl⟩
  | register n v ha hw hl h => rw [h]; exact .inl ⟨by simp, by simp, by simp⟩
  | byte b i v hi h => rw [h]; exact .inl ⟨by simp, by simp, by simp⟩
  | receive f hx he hf h => rw [h]; exact .inl ⟨by simp, by simp, by simp⟩
  | transmitted a r hx he hr h => rw [h]; exact .inl ⟨rfl, rfl, rfl⟩
  | reset hx h => rw [h]; exact .inl ⟨rfl, rfl, rfl⟩

/-- A step keeps `STATUS` and `FILTER_ETYPE`, or it is a reset, or a command that completes (R25, R31). -/
theorem step_status_filterEtype_cases {s t : State} (h : step s = .next t) :
    (t.status = s.status ∧ t.filterEtype = s.filterEtype) ∨ NextIsReset s ∨
    ∃ i u ins, IssuesCommand s i ∧ AllowedIn i s.engine ∧ ownRule i { s with inputs := ins } = .ok u ∧
      t = { u with inputs := t.inputs } := by
  cases step_effect h with
  | command i u ins hc ha hu h => exact .inr (.inr ⟨i, u, ins, hc, ha, hu, h⟩)
  | reset hx h => exact .inr (.inl hx)
  | nothing h => rw [h]; exact .inl ⟨rfl, rfl⟩
  | refusal m h => rw [h]; exact .inl ⟨rfl, rfl⟩
  | fault n h => rw [h]; exact .inl ⟨rfl, rfl⟩
  | read v h => rw [h]; exact .inl ⟨rfl, rfl⟩
  | register n v ha hw hl h => rw [h]; exact .inl ⟨by simp, by simp⟩
  | byte b i v hi h => rw [h]; exact .inl ⟨by simp, by simp⟩
  | receive f hx he hf h => rw [h]; exact .inl ⟨by simp, by simp⟩
  | transmitted a r hx he hr h => rw [h]; exact .inl ⟨rfl, rfl⟩

/-- `STATUS` changes only when a command is issued, or at reset (R25). -/
theorem step_status {s t : State} (h : step s = .next t) (hne : t.status ≠ s.status) :
    NextIsReset s ∨ ∃ i, IssuesCommand s i := by
  rcases step_status_filterEtype_cases h with ⟨hs, -⟩ | hx | ⟨i, u, ins, hc, -⟩
  · exact absurd hs hne
  · exact .inl hx
  · exact .inr ⟨i, hc⟩

/-- `FILTER_ETYPE` changes only when SETFILTER is issued in `IDLE`, or at reset (R31). -/
theorem step_filterEtype {s t : State} (h : step s = .next t) (hne : t.filterEtype ≠ s.filterEtype) :
    NextIsReset s ∨ (s.engine = .idle ∧ IssuesCommand s .setfilter ∧ s.opEtype = some t.filterEtype) := by
  rcases step_status_filterEtype_cases h with ⟨-, hf⟩ | hx | ⟨i, u, ins, hc, ha, hu, ht⟩
  · exact absurd hf hne
  · exact .inl hx
  · rw [ht] at hne ⊢
    obtain ⟨rfl, hf⟩ := (ownRule_filterEtype hu).resolve_left hne
    exact .inr ⟨ha.resolve_right (by simp), hc, hf⟩

/-! ### `TX_PEND` and `STATE` -/

/-- `PendingOk` speaks of `STATE` and `TX_PEND` alone. -/
theorem PendingOk.congr {s t : State} (hp : PendingOk s) (he : t.engine = s.engine) (ht : t.txPend = s.txPend) :
    PendingOk t := by
  rwa [PendingOk, he, ht]

/-- Nothing is pending in a state outside `TX_WAIT` with `TX_PEND` empty. -/
theorem pendingOk_of_none {s : State} (ht : s.txPend = none) (he : s.engine ≠ .txWait) : PendingOk s := by
  simp [PendingOk, ht, he]

theorem PendingOk.txPend_eq_none {s : State} (hp : PendingOk s) (he : s.engine ≠ .txWait) : s.txPend = none :=
  Option.not_isSome_iff_eq_none.mp fun h => he (hp.mp h)

/-- START leaves nothing pending because it is taken in `IDLE` only; STOP abandons the pending reply (R136, R137). -/
theorem ownRule_pendingOk {i : Instr} {s t : State} (hp : PendingOk s) (ha : AllowedIn i s.engine)
    (h : ownRule i s = .ok t) : PendingOk t := by
  rcases ownRule_control h with ⟨he, ht⟩ | ⟨rfl, rfl⟩ | ⟨rfl, rfl⟩
  · exact hp.congr he ht
  · have he : s.engine = .idle := ha.resolve_right (by simp)
    exact pendingOk_of_none (hp.txPend_eq_none (by simp [he])) (by simp [startRule])
  · exact pendingOk_of_none rfl (by simp [stopRule])

/-- The receive step makes a reply pending together with `TX_WAIT` (R141). -/
theorem rspRx_pendingOk {s : State} (f : Frame) (hp : PendingOk s) : PendingOk (rspRx f s) := by
  rcases rspRx_cases f s with h | h <;> rw [h]
  · exact hp.congr rfl rfl
  · exact ⟨fun _ => rfl, fun _ => rfl⟩

/-- Every step keeps `TX_PEND` non-empty exactly in `TX_WAIT` (R30). -/
theorem step_pendingOk {s t : State} (hp : PendingOk s) (h : step s = .next t) : PendingOk t := by
  cases step_effect h with
  | command i u ins hc ha hu h =>
    rw [h]
    exact (ownRule_pendingOk (s := { s with inputs := ins }) (hp.congr rfl rfl) ha hu).congr rfl rfl
  | receive f hx he hf h => rw [h]; exact rspRx_pendingOk f (hp.congr rfl rfl)
  | transmitted a r hx he hr h => rw [h]; exact pendingOk_of_none rfl (by simp [rspTxDone])
  | reset hx h => rw [h]; exact pendingOk_of_none rfl (by simp [State.reset])
  | nothing h => rw [h]; exact hp.congr rfl rfl
  | refusal m h => rw [h]; exact hp.congr rfl rfl
  | fault n h => rw [h]; exact hp.congr rfl rfl
  | read v h => rw [h]; exact hp.congr rfl rfl
  | register n v ha hw hl h => rw [h]; exact hp.congr (by simp) (by simp)
  | byte b i v hi h => rw [h]; exact hp.congr (by simp) (by simp)

/-! ### The obligations -/

/-- Settles O51: the equivalence holds at reset, and `step_pendingOk` keeps it. -/
theorem pendingExactlyInTxWait : Obligations.PendingExactlyInTxWait :=
  ⟨pendingOk_of_none rfl (by simp [State.reset]), rfl, fun _ _ => step_pendingOk⟩

/-- Settles O41: each clause is one outcome of the checks of R25. -/
theorem hostRegisterWrite : Obligations.HostRegisterWrite := by
  refine ⟨fun _ _ => step_status, fun s r v rest hs => ?_⟩
  rw [step_host hs]
  refine ⟨fun hr => hostOp_hwr_refused _ (checkWrite_noSuchRegister _ v hr), ?_⟩
  rintro n rfl
  refine ⟨fun ha => hostOp_hwr_refused _ (checkWrite_readOnly _ v ha),
    fun ha hv => hostOp_hwr_refused _ (checkWrite_tooWide _ ha hv),
    fun ha hv hn hc => hostOp_hwr_refused _ (checkWrite_overCapacity ha hv hn hc), ?_, fun ha hv hc => ?_⟩
  · rintro rfl hv
    exact hostOp_hwr_cmd _ (checkWrite_accepted (by decide) hv (by simp))
  · have hn : n ≠ .cmd := by rintro rfl; cases ha
    have hok := checkWrite_accepted (cap := Config.bufCap) (by simp [ha]) hv hc
    exact ⟨_, hostOp_hwr_register _ hok hn, regRead_regWrite_same _ ha hv,
      fun m hm => regRead_regWrite_other v { s with inputs := rest } hm,
      by simp, by simp, by simp, by simp, by simp [SameMarks]⟩

/-- Settles O42: each clause is one outcome of `portRead`. -/
theorem hostRegisterRead : Obligations.HostRegisterRead := by
  intro s r rest hs
  refine ⟨fun hr => step_hrd hs (portRead_noSuchRegister _ hr), ?_, ?_⟩
  · rintro rfl
    exact step_hrd hs (portRead_cmd _)
  · rintro n rfl hn
    exact ⟨fun h => step_hrd hs (portRead_unwritten hn h), fun v h => step_hrd hs (portRead_written hn h)⟩

/-- Settles O43: the byte written reads back, and `setBuf` touches the buffers alone. -/
theorem hostBufferWrite : Obligations.HostBufferWrite := by
  intro s b i v rest hs
  refine ⟨fun hi => step_hwb hs (bufferWrite_overCapacity b v _ hi),
    fun hi hv => step_hwb hs (bufferWrite_tooWide b _ hi hv),
    fun hi hv => ⟨_, step_hwb hs (bufferWrite_accepted b _ hi hv), ?_, ?_, setBuf_frame _ _ _⟩⟩
  · rw [bufOf_setBuf, Memory.read_write_same]
  · exact fun c a h => read_setBuf_write_other _ { s with inputs := rest } h

/-- Settles O50: by what a step records, no mark or one mark alone (`step_marks`). -/
theorem markedStepsChangeNothingElse : Obligations.MarkedStepsChangeNothingElse := by
  intro s t h
  rcases step_marks h with ⟨hf, hr, hm⟩ | ⟨m, h⟩ | ⟨n, h⟩
  · exact ⟨⟨[], by simp [hf]⟩, fun h => hr.trans h, fun h => absurd hm h, fun h => absurd hr h,
      fun h => absurd h (by simp [hf, hm])⟩
  · rw [h]
    exact ⟨⟨[], by simp⟩, fun _ => rfl, fun _ => rfl, fun _ => by simp, fun _ => rfl⟩
  · rw [h]
    exact ⟨⟨_, rfl⟩, fun h => h, fun h => absurd rfl h, fun h => absurd rfl h, fun _ => rfl⟩

/-- Settles O56: a step keeps the value but for SETFILTER and reset, and the port refuses HOST's write of it. -/
theorem filterFixedOnceStarted : Obligations.FilterFixedOnceStarted := by
  refine ⟨rfl, fun _ _ => step_filterEtype, fun s v rest hs => ?_⟩
  rw [step_host hs]
  exact hostOp_hwr_refused _ (checkWrite_readOnly (n := .filterEtype) _ v rfl)

/-- Settles O44: each clause is one outcome of `bufferRead`. -/
theorem hostBufferRead : Obligations.HostBufferRead := by
  intro s b i rest hs
  exact ⟨fun hi => step_hrb hs (bufferRead_overCapacity b _ hi), fun hi h => step_hrb hs (bufferRead_unwritten hi h),
    fun v hi h => step_hrb hs (bufferRead_written hi h)⟩

end Sys2Proof.Machine
end

section
/-! PROOFS. The encoding statements of 30_encoding.md: the decoder and the reserved words (O2, O3), the commands of
each engine state (O6), and the forms of a frame (O10, O11). -/

namespace Sys2Proof.Machine

/-! ### Command words -/

/-- A word is its three fields, `RSV` first (R81). -/
theorem append_fieldsOf (w : Word) : (fieldsOf w).rsv ++ ((fieldsOf w).mode ++ (fieldsOf w).opc) = w := by
  apply BitVec.eq_of_getLsbD_eq
  intro k hk
  simp only [fieldsOf]
  rw [BitVec.getLsbD_append, BitVec.getLsbD_append]
  split_ifs with h1 h2 <;>
    (rw [BitVec.getLsbD_extractLsb', decide_eq_true (by omega), Bool.true_and]; congr 1; omega)

/-- `encodeWord` writes the opcode map of R82. -/
theorem encodeWord_eq_tableWord (i : Instr) : encodeWord i = tableWord i := by cases i <;> decide

open Sys2Proof.Laws.CommandWordShape in
/-- The fields of a command's word are its `OPC` and `MOD`, and `RSV` zero (R81, R82). -/
theorem fieldsOf_encodeWord (i : Instr) : fieldsOf (encodeWord i) = ⟨(opModeOf i).1, (opModeOf i).2, 0#22⟩ := by
  cases i
  case encode => exact encode.1
  case encodeV => exact encodeV.1
  case decode => exact decode.1
  case filter => exact filter.1
  case swap => exact swap.1
  case qualifyAe => exact qualifyAe.1
  case qualifyAep => exact qualifyAep.1
  case qualifyA => exact qualifyA.1
  case setfilter => exact setfilter.1
  case start => exact start.1
  case stop => exact stop.1

theorem decodeWord_encodeWord (i : Instr) : decodeWord (encodeWord i) = .ok i := by cases i <;> decide

/-- R83's list by `OPC` and `MOD`, for a word whose `RSV` is zero. -/
def ReservedOpMode (opc : BitVec 8) (mode : BitVec 2) : Prop :=
  (opc = 0x00#8 ∨ (0x06#8 ≤ opc ∧ opc ≤ 0x0F#8) ∨ 0x13#8 ≤ opc) ∨
  (opc = 0x01#8 ∧ (mode = 0b10#2 ∨ mode = 0b11#2)) ∨ (opc = 0x05#8 ∧ mode = 0b11#2) ∨
  (opc ∈ [0x02#8, 0x03#8, 0x04#8, 0x10#8, 0x11#8, 0x12#8] ∧ mode ≠ 0#2)

/-- R83 by field: `RSV` not zero, or `OPC` and `MOD` reserved. -/
theorem reservedWord_iff (w : Word) :
    ReservedWord w ↔ (fieldsOf w).rsv ≠ 0#22 ∨ ReservedOpMode (fieldsOf w).opc (fieldsOf w).mode := Iff.rfl

/-- No command's `OPC` and `MOD` are reserved (R82, R83). -/
theorem not_reservedOpMode_opModeOf (i : Instr) : ¬ReservedOpMode (opModeOf i).1 (opModeOf i).2 := by
  cases i <;> simp only [ReservedOpMode] <;> decide

/-- The operation codes of R82. -/
def tableOpcodes : List (BitVec 8) := [0x01#8, 0x02#8, 0x03#8, 0x04#8, 0x05#8, 0x10#8, 0x11#8, 0x12#8]

theorem decodeOpMode_noSuchOpcode {opc : BitVec 8} (mode : BitVec 2) (h : opc ∉ tableOpcodes) :
    decodeOpMode opc mode = .error (.noSuchOpcode opc) := by
  unfold decodeOpMode
  split
  case h_9 => rfl
  all_goals
    rename_i hn
    exact absurd (by simp [tableOpcodes, ← BitVec.toNat_inj, hn]) h

/-- A code outside the opcode map lies in one of the three ranges that R83 gives. -/
theorem reservedOpcode_of_notMem {opc : BitVec 8} (h : opc ∉ tableOpcodes) :
    opc = 0x00#8 ∨ (0x06#8 ≤ opc ∧ opc ≤ 0x0F#8) ∨ 0x13#8 ≤ opc := by
  simp only [tableOpcodes, List.mem_cons, List.not_mem_nil, or_false] at h
  bv_omega

/-- The four values of `MOD` (R81). -/
theorem mode_cases (mode : BitVec 2) : mode = 0#2 ∨ mode = 1#2 ∨ mode = 2#2 ∨ mode = 3#2 := by
  revert mode
  decide

/-- Where an `OPC` has one command, `MOD` zero selects it and any other is reserved (R82, R83). -/
theorem decodeOpMode_singleMode {opc : BitVec 8} {mode : BitVec 2} {i : Instr}
    (hopc : opc ∈ [0x02#8, 0x03#8, 0x04#8, 0x10#8, 0x11#8, 0x12#8]) (hi : opModeOf i = (opc, 0#2))
    (hd : decodeOpMode opc mode = if mode = 0#2 then .ok i else .error (.reservedMode opc mode)) :
    (∃ j, decodeOpMode opc mode = .ok j ∧ opModeOf j = (opc, mode)) ∨
    ∃ e, decodeOpMode opc mode = .error e ∧ ReservedOpMode opc mode := by
  by_cases hm : mode = 0#2
  · exact .inl ⟨i, by rw [hd, if_pos hm], by rw [hi, hm]⟩
  · exact .inr ⟨_, by rw [hd, if_neg hm], .inr (.inr (.inr ⟨hopc, hm⟩))⟩

/-- An `OPC` and a `MOD` select the command that has them, or they are reserved (R82, R83). -/
theorem decodeOpMode_cases (opc : BitVec 8) (mode : BitVec 2) :
    (∃ i, decodeOpMode opc mode = .ok i ∧ opModeOf i = (opc, mode)) ∨
    ∃ e, decodeOpMode opc mode = .error e ∧ ReservedOpMode opc mode := by
  by_cases hopc : opc ∈ tableOpcodes
  · simp only [tableOpcodes, List.mem_cons, List.not_mem_nil, or_false] at hopc
    rcases hopc with rfl | rfl | rfl | rfl | rfl | rfl | rfl | rfl
    · rcases mode_cases mode with rfl | rfl | rfl | rfl
      · exact .inl ⟨_, rfl, rfl⟩
      · exact .inl ⟨_, rfl, rfl⟩
      · exact .inr ⟨_, rfl, .inr (.inl ⟨rfl, .inl rfl⟩)⟩
      · exact .inr ⟨_, rfl, .inr (.inl ⟨rfl, .inr rfl⟩)⟩
    · exact decodeOpMode_singleMode (by decide) rfl rfl
    · exact decodeOpMode_singleMode (by decide) rfl rfl
    · exact decodeOpMode_singleMode (by decide) rfl rfl
    · rcases mode_cases mode with rfl | rfl | rfl | rfl
      · exact .inl ⟨_, rfl, rfl⟩
      · exact .inl ⟨_, rfl, rfl⟩
      · exact .inl ⟨_, rfl, rfl⟩
      · exact .inr ⟨_, rfl, .inr (.inr (.inl ⟨rfl, rfl⟩))⟩
    · exact decodeOpMode_singleMode (by decide) rfl rfl
    · exact decodeOpMode_singleMode (by decide) rfl rfl
    · exact decodeOpMode_singleMode (by decide) rfl rfl
  · exact .inr ⟨_, decodeOpMode_noSuchOpcode mode hopc, .inl (reservedOpcode_of_notMem hopc)⟩

/-- Every word is the word of the command it decodes to, or it is rejected and reserved (R82, R83). -/
theorem decodeWord_cases (w : Word) :
    (∃ i, decodeWord w = .ok i ∧ w = encodeWord i) ∨ ∃ e, decodeWord w = .error e ∧ ReservedWord w := by
  by_cases hr : (fieldsOf w).rsv = 0#22
  · have hd : decodeWord w = decodeOpMode (fieldsOf w).opc (fieldsOf w).mode := if_pos hr
    rcases decodeOpMode_cases (fieldsOf w).opc (fieldsOf w).mode with ⟨i, h, hi⟩ | ⟨e, h, hres⟩
    · exact .inl ⟨i, hd.trans h, by rw [encodeWord, hi, ← hr, append_fieldsOf]⟩
    · exact .inr ⟨e, hd.trans h, (reservedWord_iff w).mpr (.inr hres)⟩
  · exact .inr ⟨_, if_neg hr, (reservedWord_iff w).mpr (.inl hr)⟩

/-- No command's word is reserved (R83). -/
theorem not_reservedWord_encodeWord (i : Instr) : ¬ReservedWord (encodeWord i) := by
  rw [reservedWord_iff, fieldsOf_encodeWord]
  rintro (h | h)
  · exact h rfl
  · exact not_reservedOpMode_opModeOf i h

/-- A word decodes to a command exactly when it is that command's word: no bit is ignored (R82). -/
theorem decodeWord_eq_ok_iff (w : Word) (i : Instr) : decodeWord w = .ok i ↔ w = encodeWord i := by
  constructor
  · intro h
    rcases decodeWord_cases w with ⟨j, hj, hw⟩ | ⟨e, he, -⟩
    · cases hj.symm.trans h
      exact hw
    · cases he.symm.trans h
  · rintro rfl
    exact decodeWord_encodeWord i

/-- The decoder rejects exactly the reserved words (R83). -/
theorem decodeWord_error_iff (w : Word) : (∃ e, decodeWord w = .error e) ↔ ReservedWord w := by
  rcases decodeWord_cases w with ⟨i, hi, hw⟩ | ⟨e, he, hres⟩
  · exact iff_of_false (by simp [hi]) (hw ▸ not_reservedWord_encodeWord i)
  · exact iff_of_true ⟨e, he⟩ hres

/-- The issue of a reserved word is refused, and nothing but the mark changes (R80, R83). -/
theorem issueCommand_reserved {w : Word} (s : State) (h : ReservedWord w) :
    issueCommand w s = .next (recordRefusal (.unknownCommand w) s) := by
  obtain ⟨e, he⟩ := (decodeWord_error_iff w).mpr h
  rw [issueCommand, he]

/-- A step whose next event is HOST's write of a word to `CMD` issues that word (R25, R80). -/
theorem step_writesCmd {s : State} {w : Word} {rest : List Input} (hs : s.inputs = .host (.hwr 0x00 w.toNat) :: rest) :
    step s = issueCommand w { s with inputs := rest } := by
  have hc : checkWrite Config.bufCap (regIndex .cmd) w.toNat = .ok .cmd :=
    checkWrite_accepted (by decide) w.isLt (by simp)
  rw [step_host hs, hostOp_hwr_cmd (r := 0x00) _ hc, BitVec.ofNat_toNat, BitVec.setWidth_eq]

/-! ### The commands of each engine state -/

/-- What a command's own rule answers: a fault on a missing operand, a frame over `BUF_CAP`, or a next state (R24, R39,
R102, R103). -/
theorem ownRule_cases (i : Instr) (s : State) :
    (∃ n, ownRule i s = .error (.unwritten n) ∧ MissingOperand i s n) ∨
    (∃ n, ownRule i s = .error (.refuse (.frameOverCapacity n)) ∧ encodedLength i s = some n ∧ Config.bufCap < n) ∨
    ∃ t, ownRule i s = .ok t := by
  cases i
  case encode =>
    refine (encodeRule_cases Config.bufCap s).imp_right fun ⟨dst, src, et, p, _, _, _, ⟨n, hn, hl, _⟩, e⟩ => ?_
    by_cases hc : Config.bufCap < 14 + p.length
    · exact .inl ⟨_, e.trans (if_pos hc), by simp [encodedLength, hn, hl], hc⟩
    · exact .inr ⟨_, e.trans (if_neg hc)⟩
  case encodeV =>
    refine (encodeVRule_cases Config.bufCap s).imp_right fun ⟨dst, src, et, v, p, _, _, _, _, ⟨n, hn, hl, _⟩, e⟩ => ?_
    by_cases hc : Config.bufCap < 18 + p.length
    · exact .inl ⟨_, e.trans (if_pos hc), by simp [encodedLength, hn, hl], hc⟩
    · rw [if_neg hc] at e
      cases hf : encodeFn dst src et p (some v) with
      | frame f => exact .inr ⟨_, by rw [ownRule, e, hf]⟩
      | invalidVlanId => exact .inr ⟨_, by rw [ownRule, e, hf]⟩
  case decode => exact (decodeRule_cases s).imp_right fun ⟨_, _, e⟩ => .inr ⟨_, e⟩
  case filter => exact (filterRule_cases s).imp_right fun ⟨_, _, e⟩ => .inr ⟨_, e⟩
  case swap => exact (swapRule_cases s).imp_right fun ⟨_, _, e⟩ => .inr ⟨_, e.trans (apply_ite Except.ok _ _ _).symm⟩
  case qualifyAe => exact (qualifyAeRule_cases s).imp_right fun ⟨_, _, _, _, _, _, _, _, e⟩ => .inr ⟨_, e⟩
  case qualifyAep => exact (qualifyAepRule_cases s).imp_right fun ⟨_, _, _, _, _, _, _, _, _, _, e⟩ => .inr ⟨_, e⟩
  case qualifyA => exact (qualifyARule_cases s).imp_right fun ⟨_, _, _, _, _, _, e⟩ => .inr ⟨_, e⟩
  case setfilter => exact (setfilterRule_cases s).imp_right fun ⟨_, _, e⟩ => .inr ⟨_, e⟩
  case start => exact .inr (.inr ⟨_, rfl⟩)
  case stop => exact .inr (.inr ⟨_, rfl⟩)

/-- The refusals that a command's own rule adds: none, or that of a frame over `BUF_CAP` (R102, R103). -/
theorem settle_ownRule_refusals (i : Instr) (s : State) :
    (settle s (ownRule i s)).refusals = s.refusals ∨
    ∃ n, (settle s (ownRule i s)).refusals = s.refusals ++ [.frameOverCapacity n] := by
  rcases ownRule_cases i s with ⟨n, e, -⟩ | ⟨n, e, -⟩ | ⟨t, e⟩ <;> rw [e]
  · exact .inl rfl
  · exact .inr ⟨n, rfl⟩
  · obtain ⟨-, -, hm, -⟩ := ownRule_sameMarks e
    exact .inl hm

/-- A command in its row of R84 records no `CommandInState`. -/
theorem settle_ownRule_not_commandInState (i j : Instr) (e : EngineState) (s : State) :
    (settle s (ownRule i s)).refusals ≠ s.refusals ++ [.commandInState j e] := by
  rcases settle_ownRule_refusals i s with h | ⟨n, h⟩ <;> rw [h]
  · simp
  · simp

/-! ### The forms of a frame -/

/-- A frame of fewer than 14 bytes has no form but REJECT (R73). -/
theorem frameForm_reject {b : Frame} (h : b.length < 14) : frameForm b = .reject := if_pos h

theorem frameForm_tagged {b : Frame} (hl : 18 ≤ b.length) (ht : be16 b 12 = 0x8100#16) : frameForm b = .tagged := by
  rw [frameForm, if_neg (by simp; omega), if_pos ⟨ht, hl⟩]

theorem frameForm_untagged {b : Frame} (hl : 14 ≤ b.length) (ht : ¬(be16 b 12 = 0x8100#16 ∧ 18 ≤ b.length)) :
    frameForm b = .untagged := by
  rw [frameForm, if_neg (by simp; omega), if_neg ht]

theorem decodeFn_tagged {b : Frame} (hl : 18 ≤ b.length) (ht : be16 b 12 = 0x8100#16) :
    decodeFn b = .parsed ⟨be48 b 0, be48 b 6, true, some (be16 b 14), be16 b 16, 18, b.length - 18⟩ := by
  rw [decodeFn_long (by omega), parseFrame, if_pos ⟨ht, hl⟩]

theorem decodeFn_untagged {b : Frame} (hl : 14 ≤ b.length) (ht : ¬(be16 b 12 = 0x8100#16 ∧ 18 ≤ b.length)) :
    decodeFn b = .parsed ⟨be48 b 0, be48 b 6, false, none, be16 b 12, 14, b.length - 14⟩ := by
  rw [decodeFn_long hl, parseFrame, if_neg ht]

theorem effectiveEtype_of_reject {b : Frame} (h : frameForm b = .reject) : effectiveEtype b = none := by
  simp only [effectiveEtype, h]

theorem effectiveEtype_of_tagged {b : Frame} (h : frameForm b = .tagged) : effectiveEtype b = some (be16 b 16) := by
  simp only [effectiveEtype, h]

theorem effectiveEtype_of_untagged {b : Frame} (h : frameForm b = .untagged) :
    effectiveEtype b = some (be16 b 12) := by
  simp only [effectiveEtype, h]

theorem framePayload_of_tagged {b : Frame} (h : frameForm b = .tagged) : framePayload b = some (b.drop 18) := by
  simp only [framePayload, h]

theorem framePayload_of_untagged {b : Frame} (h : frameForm b = .untagged) : framePayload b = some (b.drop 14) := by
  simp only [framePayload, h]

/-- The bytes of a frame from an offset to its end (R75). -/
theorem frameSlice_to_end (b : Frame) (off : Nat) : frameSlice b off (b.length - off) = b.drop off :=
  List.take_of_length_le (List.length_drop ▸ le_refl _)

/-- Every frame is shorter than 14 bytes, or tagged, or untagged (R73). -/
theorem frame_length_tpid_cases (b : Frame) :
    b.length < 14 ∨ (18 ≤ b.length ∧ be16 b 12 = 0x8100#16) ∨
    (14 ≤ b.length ∧ ¬(be16 b 12 = 0x8100#16 ∧ 18 ≤ b.length)) := by
  by_cases ht : be16 b 12 = 0x8100#16 ∧ 18 ≤ b.length
  · exact .inr (.inl ht.symm)
  · exact (Nat.lt_or_ge b.length 14).imp_right fun h => .inr ⟨h, ht⟩

/-! ### The obligations -/

/-- Settles O2: a word decodes to a command exactly when it is the word `encodeWord` writes (`decodeWord_eq_ok_iff`), and
any other word is reserved. -/
theorem decodeIffTableWord : Obligations.DecodeIffTableWord := by
  refine ⟨encodeWord_eq_tableWord, fun w i => ?_, fun w s hw => ?_⟩
  · rw [← encodeWord_eq_tableWord, decodeWord_eq_ok_iff]
  · rcases decodeWord_cases w with ⟨i, -, h⟩ | ⟨e, -, h⟩
    · exact absurd (h.trans (encodeWord_eq_tableWord i)) (hw i)
    · exact issueCommand_reserved s h

/-- Settles O3: the decoder rejects the reserved words alone, and their issue records the refusal alone. -/
theorem reservedWordsRefused : Obligations.ReservedWordsRefused := by
  refine fun w => ⟨decodeWord_error_iff w, fun s rest hw hs => ⟨_, ?_, rfl, rfl⟩⟩
  rw [step_writesCmd hs, issueCommand_reserved _ hw]

/-- Settles O6: the gate of commands is R84's table, and behind it only `FrameOverCapacity` is refused. -/
theorem commandsAllowedByState : Obligations.CommandsAllowedByState := by
  intro i s
  by_cases ha : AllowedIn i s.engine
  · refine ⟨settle s (ownRule i s), ?_, fun _ j e => settle_ownRule_not_commandInState i j e s, fun h => absurd ha h⟩
    rw [exec_eq, command_allowed _ ((allowed_iff _ _).mpr ha)]
  · refine ⟨_, ?_, fun h => absurd h ha, fun _ => rfl⟩
    rw [exec_eq, command_refused _ (Bool.eq_false_iff.mpr fun h => ha ((allowed_iff _ _).mp h))]

/-- Settles O10: each length class has its form, and the form gives the EtherType and the payload. -/
theorem frameFormByLengthClass : Obligations.FrameFormByLengthClass := by
  intro b
  refine ⟨fun h => frameForm_reject (by omega), fun h1 h2 => ?_, fun hl ht => ?_, fun hl ht => ?_⟩
  · have hf : frameForm b = .untagged := frameForm_untagged h1 (by omega)
    exact ⟨hf, effectiveEtype_of_untagged hf, framePayload_of_untagged hf, by rw [List.length_drop]; omega⟩
  · have hf := frameForm_tagged hl ht
    exact ⟨hf, effectiveEtype_of_tagged hf⟩
  · exact frameForm_untagged (by omega) fun h => ht h.1

/-- Settles O11: in each of R73's three forms, what `decodeFn` reports is what the form gives. -/
theorem decodedEtypeAndPayload : Obligations.DecodedEtypeAndPayload := by
  intro b
  rcases frame_length_tpid_cases b with h | ⟨hl, ht⟩ | ⟨hl, ht⟩
  · have hf := frameForm_reject h
    simp [decodeFn_short h, hf, effectiveEtype_of_reject hf]
  · have hf := frameForm_tagged hl ht
    simp [decodeFn_tagged hl ht, hf, effectiveEtype_of_tagged hf, framePayload_of_tagged hf, frameSlice_to_end]
  · have hf := frameForm_untagged hl ht
    simp [decodeFn_untagged hl ht, hf, effectiveEtype_of_untagged hf, framePayload_of_untagged hf, frameSlice_to_end]

end Sys2Proof.Machine
end

section
/-! PROOFS. The Frame Codec of 40_codec.md: the frame functions (O8, O9), ENCODE, ENCODE.V and DECODE (O13–O15), the two
round trips (O16, O17), short frames (O18) and the length of an encoded frame (O19). -/

namespace Sys2Proof.Machine

/-! ### The gate and the operands, for every command -/

/-- Outside `IDLE` every command but STOP is refused (R84). -/
theorem refusedOutsideIdle {i : Instr} (hi : i ≠ .stop) (s : State) : RefusedOutsideIdle i s := by
  intro he
  have ha : ¬AllowedIn i s.engine := by simp [AllowedIn, he, hi]
  rw [exec_eq, command_refused _ (Bool.eq_false_iff.mpr fun h => ha ((allowed_iff _ _).mp h))]

/-- Nothing is missing of a command that reads the frame alone, when one is held. -/
theorem nothing_missing_of_frame {i : Instr} {s : State} {b : Frame} (hi : operandRegs i = [.frameLen])
    (hp : readsPayload i = false) (hb : HoldsFrame s b) (name : CellName) : ¬MissingOperand i s name :=
  nothing_missing (by simp [hi, HoldsFrame_regRead hb]) (fun _ => ⟨b, hb⟩) (by simp [hp]) name

/-- A command's own rule faults on a missing operand, or none is missing (R24). -/
theorem ownRule_unwritten_or_nothing_missing (i : Instr) (s : State) :
    (∃ n, ownRule i s = .error (.unwritten n) ∧ MissingOperand i s n) ∨ ∀ name, ¬MissingOperand i s name := by
  cases i
  case encode =>
    refine (encodeRule_cases Config.bufCap s).imp_right fun ⟨_, _, _, p, hd, hs, ht, hp@⟨n, hn, _⟩, _⟩ => ?_
    exact nothing_missing (by simp [operandRegs, regRead, hd, hs, ht, hn]) nofun fun _ => ⟨p, hp⟩
  case encodeV =>
    refine (encodeVRule_cases Config.bufCap s).imp_right fun ⟨_, _, _, _, p, hd, hs, ht, hv, hp@⟨n, hn, _⟩, _⟩ => ?_
    exact nothing_missing (by simp [operandRegs, regRead, hd, hs, ht, hv, hn]) nofun fun _ => ⟨p, hp⟩
  case decode => exact (decodeRule_cases s).imp_right fun ⟨_, hb, _⟩ => nothing_missing_of_frame rfl rfl hb
  case filter => exact (filterRule_cases s).imp_right fun ⟨_, hb, _⟩ => nothing_missing_of_frame rfl rfl hb
  case swap => exact (swapRule_cases s).imp_right fun ⟨_, hb, _⟩ => nothing_missing_of_frame rfl rfl hb
  case qualifyAe =>
    refine (qualifyAeRule_cases s).imp_right fun ⟨b, _, _, _, hb@⟨m, hm, _⟩, hs, hd, ht, _⟩ => ?_
    exact nothing_missing (by simp [operandRegs, regRead, hm, hs, hd, ht]) (fun _ => ⟨b, hb⟩) nofun
  case qualifyAep =>
    refine (qualifyAepRule_cases s).imp_right
      fun ⟨b, _, _, _, p, hb@⟨m, hm, _⟩, hs, hd, ht, hp@⟨n, hn, _⟩, _⟩ => ?_
    exact nothing_missing (by simp [operandRegs, regRead, hm, hs, hd, ht, hn]) (fun _ => ⟨b, hb⟩) fun _ => ⟨p, hp⟩
  case qualifyA =>
    refine (qualifyARule_cases s).imp_right fun ⟨b, _, _, hb@⟨m, hm, _⟩, hs, hd, _⟩ => ?_
    exact nothing_missing (by simp [operandRegs, regRead, hm, hs, hd]) (fun _ => ⟨b, hb⟩) nofun
  case setfilter =>
    refine (setfilterRule_cases s).imp_right fun ⟨_, ht, _⟩ => ?_
    exact nothing_missing (by simp [operandRegs, regRead, ht]) nofun nofun
  case start => exact .inr (nothing_missing nofun nofun nofun)
  case stop => exact .inr (nothing_missing nofun nofun nofun)

/-- In `IDLE` every command faults on an unwritten operand (R24, R39). -/
theorem faultsOnUnwritten (i : Instr) (s : State) : FaultsOnUnwritten i s := by
  rintro he ⟨name, hm⟩
  rcases ownRule_unwritten_or_nothing_missing i s with ⟨n, e, hn⟩ | h
  · exact ⟨n, hn, by rw [exec_idle i he, e, settle_unwritten]⟩
  · exact absurd hm (h name)

/-- A command that records no mark is its own rule, completed (R39). -/
theorem ownRule_of_sameMarks {i : Instr} {s t : State} (h : exec i s = .next t) (hm : SameMarks s t) :
    ownRule i s = .ok t := by
  obtain ⟨hf, -, hr, -, -⟩ := hm
  rw [exec_eq] at h
  rcases command_cases h with ⟨-, rfl⟩ | ⟨-, hok | ⟨n, -, rfl⟩ | ⟨m, -, rfl⟩⟩
  · simp at hr
  · exact hok
  · simp at hf
  · simp at hr

/-! ### The two layouts of an encoded frame -/

/-- Destination, source, EtherType, payload (R71, R100). -/
def untaggedFrame (dst src : Addr) (et : Half) (p : Frame) : Frame := bytes48 dst ++ bytes48 src ++ bytes16 et ++ p

/-- Destination, source, `81 00`, the VLAN id in 16 bits, EtherType, payload (R72, R100). -/
def taggedFrame (dst src : Addr) (v et : Half) (p : Frame) : Frame :=
  bytes48 dst ++ bytes48 src ++ [0x81#8, 0x00#8] ++ bytes16 v ++ bytes16 et ++ p

section
variable (dst src : Addr) (v et : Half) (p : Frame)

@[simp] theorem untaggedFrame_length : (untaggedFrame dst src et p).length = 14 + p.length := by
  simp only [untaggedFrame, List.length_append, bytes48_length, bytes16_length]

@[simp] theorem taggedFrame_length : (taggedFrame dst src v et p).length = 18 + p.length := by
  simp only [taggedFrame, List.length_append, bytes48_length, bytes16_length, List.length_cons, List.length_nil]

theorem untaggedFrame_payload (k : Nat) : (untaggedFrame dst src et p)[14 + k]? = p[k]? := by
  rw [untaggedFrame, List.getElem?_append_right (by simp)]
  simp

theorem taggedFrame_payload (k : Nat) : (taggedFrame dst src v et p)[18 + k]? = p[k]? := by
  rw [taggedFrame, List.getElem?_append_right (by simp)]
  simp

/-- The 16-bit fields of the payload, at their offset in the frame. -/
theorem be16_untaggedFrame_payload (i : Nat) : be16 (untaggedFrame dst src et p) (14 + i) = be16 p i :=
  be16_append_right (bytes48 dst ++ bytes48 src ++ bytes16 et) p i

/-- The header's fields stand at R71's offsets. -/
theorem untaggedFrame_fields :
    be48 (untaggedFrame dst src et p) 0 = dst ∧ be48 (untaggedFrame dst src et p) 6 = src ∧
    be16 (untaggedFrame dst src et p) 12 = et := by
  simp only [untaggedFrame, List.append_assoc]
  exact ⟨be48_bytes48 dst _, (be48_append_right (bytes48 dst) _ 0).trans (be48_bytes48 src _),
    (be16_append_right (bytes48 dst ++ bytes48 src) _ 0).trans (be16_bytes16 et _)⟩

/-- A tagged frame is the untagged frame of EtherType `0x8100` whose payload is the rest (R72). -/
theorem taggedFrame_eq_untaggedFrame :
    taggedFrame dst src v et p = untaggedFrame dst src 0x8100#16 (bytes16 v ++ (bytes16 et ++ p)) := by
  have h : bytes16 0x8100#16 = [0x81#8, 0x00#8] := by decide
  simp only [taggedFrame, untaggedFrame, h, List.append_assoc]

/-! ### What `encodeFn` answers, and what `decodeFn` answers on its frame -/

/-- A legal VLAN id has bits 15:12 zero (R77). -/
theorem vidOf_toNat {v : Half} (h : v.toNat ≤ 4095) : (vidOf v).toNat = v.toNat := by
  rw [vidOf, BitVec.extractLsb'_toNat, Nat.shiftRight_zero, Nat.mod_eq_of_lt (by omega)]

/-- So the TCI made of a legal id's bits 11:0 is the operand itself (R77). -/
theorem setWidth_vidOf {v : Half} (h : v.toNat ≤ 4095) : (vidOf v).setWidth 16 = v :=
  BitVec.eq_of_toNat_eq ((BitVec.toNat_setWidth_of_le (by decide)).trans (vidOf_toNat h))

theorem encodeFn_untagged : encodeFn dst src et p none = .frame (untaggedFrame dst src et p) := rfl

theorem encodeFn_illegalId {v : Half} (h : 4095 < v.toNat) : encodeFn dst src et p (some v) = .invalidVlanId := if_pos h

theorem encodeFn_tagged {v : Half} (h : v.toNat ≤ 4095) :
    encodeFn dst src et p (some v) = .frame (taggedFrame dst src v et p) := by
  have ht : bytes16 Config.tpid = [0x81#8, 0x00#8] := by decide
  simp only [encodeFn, Config.maxVlanId_eq, if_neg (Nat.not_lt.mpr h), setWidth_vidOf h, ht, taggedFrame]

/-- ENCODE's frame decodes to its operands, unless a tag can be read in it (R105). -/
theorem decodeFn_untaggedFrame (h : et ≠ 0x8100#16 ∨ p.length < 4) :
    decodeFn (untaggedFrame dst src et p) = .parsed ⟨dst, src, false, none, et, 14, p.length⟩ := by
  obtain ⟨hd, hs, ht⟩ := untaggedFrame_fields dst src et p
  have hl := untaggedFrame_length dst src et p
  rw [decodeFn_untagged (by omega) (by rw [ht, hl]; rintro ⟨h1, h2⟩; exact h.elim (absurd h1) (by omega)), hd, hs, ht, hl,
    Nat.add_sub_cancel_left]

/-- ENCODE's frame with EtherType `0x8100` and a payload of 4 bytes or more decodes as tagged (R105). -/
theorem decodeFn_untaggedFrame_tpid (h : 4 ≤ p.length) :
    decodeFn (untaggedFrame dst src 0x8100#16 p) =
      .parsed ⟨dst, src, true, some (be16 p 0), be16 p 2, 18, p.length - 4⟩ := by
  obtain ⟨hd, hs, ht⟩ := untaggedFrame_fields dst src 0x8100#16 p
  have hl := untaggedFrame_length dst src 0x8100#16 p
  rw [decodeFn_tagged (by omega) ht, hd, hs, hl, be16_untaggedFrame_payload dst src _ p 0,
    be16_untaggedFrame_payload dst src _ p 2, Nat.add_sub_add_left 14 p.length 4]

/-- ENCODE.V's frame decodes to its operands, for every EtherType (R106). -/
theorem decodeFn_taggedFrame :
    decodeFn (taggedFrame dst src v et p) = .parsed ⟨dst, src, true, some v, et, 18, p.length⟩ := by
  have ht : be16 (bytes16 v ++ (bytes16 et ++ p)) 2 = et := (be16_append_right (bytes16 v) _ 0).trans (be16_bytes16 et p)
  have hl : (bytes16 v ++ (bytes16 et ++ p)).length = 4 + p.length := by
    simp only [List.length_append, bytes16_length, ← Nat.add_assoc]
  rw [taggedFrame_eq_untaggedFrame, decodeFn_untaggedFrame_tpid _ _ _ (by omega), be16_bytes16, ht, hl,
    Nat.add_sub_cancel_left]

end

/-! ### ENCODE and ENCODE.V -/

/-- A finished encoding holds the frame, and keeps everything but the frame's bytes, `FRAME_LEN` and `STATUS` (R102, R103). -/
theorem finishEncode_effect {f : Frame} (s : State) (hf : f.length ≤ Config.bufCap) :
    HoldsFrame (finishEncode f s) f ∧
    (∀ a, f.length ≤ a → Memory.read (finishEncode f s).frameBuf a = Memory.read s.frameBuf a) ∧
    SameOperands s (finishEncode f s) ∧ SameResults s (finishEncode f s) ∧ SamePayload s (finishEncode f s) ∧
    SameControl s (finishEncode f s) ∧ SameMarks s (finishEncode f s) :=
  ⟨⟨_, rfl, Config.toNat_length hf, fun _ => Memory.read_writeBytes_of_lt _ _⟩,
    fun _ => Memory.read_writeBytes_of_length_le _ _, by simp [SameOperands], by simp [SameResults], by simp [SamePayload],
    by simp [SameControl], by simp [SameMarks]⟩

theorem HoldsFrame.read {s : State} {f : Frame} (hf : HoldsFrame s f) {i : Nat} (hi : i < f.length) :
    Memory.read s.frameBuf i = f[i]? := by
  obtain ⟨n, -, -, hr⟩ := hf
  exact hr i hi

/-- Where a held frame has the bytes of `p` at an offset, they read from `FRAME_BUF` there. -/
theorem HoldsFrame.read_payload {s : State} {f p : Frame} {off : Nat} (hf : HoldsFrame s f)
    (hl : f.length = off + p.length) (hp : ∀ k, f[off + k]? = p[k]?) {k : Nat} (hk : k < p.length) :
    Memory.read s.frameBuf (off + k) = p[k]? := by
  rw [hf.read (by omega), hp]

section
variable {s : State} {dst src : Addr} {et v : Half} {p : Frame} (he : s.engine = .idle) (hd : s.opDst = some dst)
  (hs : s.opSrc = some src) (ht : s.opEtype = some et) (hv : s.opVlan = some v) (hp : HoldsPayload s p)

include hd hs ht hp in
/-- ENCODE's rule with every operand written (R102). -/
theorem encodeRule_written (cap : Nat) :
    encodeRule cap s =
      if cap < 14 + p.length then .error (.refuse (.frameOverCapacity (14 + p.length)))
      else .ok (finishEncode (untaggedFrame dst src et p) s) := by
  simp only [encodeRule, hd, hs, ht, (payloadOperand_eq_ok_iff s p).mpr hp, need_some, except_bind_ok, encodeFn_untagged]

include hd hs ht hv hp in
/-- ENCODE.V's rule with every operand written: the capacity before the VLAN id (R103). -/
theorem encodeVRule_written (cap : Nat) :
    encodeVRule cap s =
      if cap < 18 + p.length then .error (.refuse (.frameOverCapacity (18 + p.length)))
      else if 4095 < v.toNat then .ok (setStatus .invalidVlanId s)
      else .ok (finishEncode (taggedFrame dst src v et p) s) := by
  simp only [encodeVRule, hd, hs, ht, hv, (payloadOperand_eq_ok_iff s p).mpr hp, need_some, except_bind_ok]
  by_cases h : 4095 < v.toNat
  · simp only [encodeFn_illegalId dst src et p h, if_pos h]
  · simp only [encodeFn_tagged dst src et p (Nat.not_lt.mp h), if_neg h]

include he hd hs ht hp in
theorem exec_encode_overCapacity (h : Config.bufCap < 14 + p.length) :
    exec .encode s = .next (recordRefusal (.frameOverCapacity (14 + p.length)) s) := by
  rw [exec_idle _ he, ownRule, encodeRule_written hd hs ht hp, if_pos h, settle_refuse]

include he hd hs ht hp in
theorem exec_encode_fits (h : 14 + p.length ≤ Config.bufCap) :
    exec .encode s = .next (finishEncode (untaggedFrame dst src et p) s) := by
  rw [exec_idle _ he, ownRule, encodeRule_written hd hs ht hp, if_neg (Nat.not_lt.mpr h), settle_ok]

include he hd hs ht hv hp in
theorem exec_encodeV_overCapacity (h : Config.bufCap < 18 + p.length) :
    exec .encodeV s = .next (recordRefusal (.frameOverCapacity (18 + p.length)) s) := by
  rw [exec_idle _ he, ownRule, encodeVRule_written hd hs ht hv hp, if_pos h, settle_refuse]

include he hd hs ht hv hp in
theorem exec_encodeV_illegalId (h : 18 + p.length ≤ Config.bufCap) (hi : 4095 < v.toNat) :
    exec .encodeV s = .next (setStatus .invalidVlanId s) := by
  rw [exec_idle _ he, ownRule, encodeVRule_written hd hs ht hv hp, if_neg (Nat.not_lt.mpr h), if_pos hi, settle_ok]

include he hd hs ht hv hp in
theorem exec_encodeV_fits (h : 18 + p.length ≤ Config.bufCap) (hi : v.toNat ≤ 4095) :
    exec .encodeV s = .next (finishEncode (taggedFrame dst src v et p) s) := by
  rw [exec_idle _ he, ownRule, encodeVRule_written hd hs ht hv hp, if_neg (Nat.not_lt.mpr h), if_neg (Nat.not_lt.mpr hi),
    settle_ok]

end

/-- An ENCODE that completes has finished an untagged frame that fits (R102). -/
theorem encodeRule_ok {cap : Nat} {s t : State} (h : encodeRule cap s = .ok t) :
    ∃ dst src et p, HoldsPayload s p ∧ 14 + p.length ≤ cap ∧ t = finishEncode (untaggedFrame dst src et p) s := by
  rcases encodeRule_cases cap s with ⟨n, e, -⟩ | ⟨dst, src, et, p, hd, hs, ht, hp, -⟩
  · cases e.symm.trans h
  · rw [encodeRule_written hd hs ht hp] at h
    split_ifs at h with hc
    cases h
    exact ⟨dst, src, et, p, hp, Nat.not_lt.mp hc, rfl⟩

/-- An ENCODE.V that completes has met an illegal VLAN id, or finished a tagged frame that fits (R103). -/
theorem encodeVRule_ok {cap : Nat} {s t : State} (h : encodeVRule cap s = .ok t) :
    t = setStatus .invalidVlanId s ∨
    ∃ dst src v et p, HoldsPayload s p ∧ 18 + p.length ≤ cap ∧ t = finishEncode (taggedFrame dst src v et p) s := by
  rcases encodeVRule_cases cap s with ⟨n, e, -⟩ | ⟨dst, src, et, v, p, hd, hs, ht, hv, hp, -⟩
  · cases e.symm.trans h
  · rw [encodeVRule_written hd hs ht hv hp] at h
    split_ifs at h with hc hi
    · cases h
      exact .inl rfl
    · cases h
      exact .inr ⟨dst, src, v, et, p, hp, Nat.not_lt.mp hc, rfl⟩

/-- A finished frame with the payload operand at `off` has length `off + OP_LEN`, and its payload reads there (R108). -/
theorem finishEncode_payload_at {s : State} {f p : Frame} {off : Nat} (hp : HoldsPayload s p)
    (hl : f.length = off + p.length) (hf : f.length ≤ Config.bufCap) (hk : ∀ k, f[off + k]? = p[k]?) :
    ∃ n m, s.opLen = some n ∧ (finishEncode f s).frameLen = some m ∧ m.toNat = off + n.toNat ∧
      ∀ k, k < n.toNat → Memory.read (finishEncode f s).frameBuf (off + k) = Memory.read s.opBuf k := by
  obtain ⟨n, hn, hnl, hr⟩ := hp
  obtain ⟨hh, -⟩ := finishEncode_effect s hf
  refine ⟨n, _, hn, rfl, by rw [Config.toNat_length hf, hl, hnl], fun k hkn => ?_⟩
  rw [hh.read_payload hl hk (by omega), hr k (by omega)]

/-! ### DECODE -/

theorem exec_decode {s : State} {b : Frame} (he : s.engine = .idle) (hb : HoldsFrame s b) :
    exec .decode s = .next (writeResults (decodeFn b) s) := by
  rw [exec_idle _ he, ownRule, decodeRule, (frameOperand_eq_ok_iff s b).mpr hb, except_bind_ok, settle_ok]

/-- DECODE writes the result registers and `STATUS` alone (R104). -/
theorem writeResults_keeps (r : DecodeResult) (s : State) :
    SameFrame s (writeResults r s) ∧ SameOperands s (writeResults r s) ∧ SamePayload s (writeResults r s) ∧
    SameControl s (writeResults r s) ∧ SameMarks s (writeResults r s) :=
  ⟨by simp [SameFrame], by simp [SameOperands], by simp [SamePayload], by simp [SameControl], by simp [SameMarks]⟩

/-- What DECODE writes does not depend on `FRAME_BUF` but through the frame (R104). -/
theorem writeResults_withFrameBuf (r : DecodeResult) (s : State) (m : Memory) :
    writeResults r { s with frameBuf := m } = { writeResults r s with frameBuf := m } := by
  cases r <;> rfl

/-- The addresses stand at offsets 0 and 6 in both layouts (R101). -/
theorem parseFrame_addresses (b : Frame) : (parseFrame b).dst = be48 b 0 ∧ (parseFrame b).src = be48 b 6 := by
  unfold parseFrame
  split <;> exact ⟨rfl, rfl⟩

/-- A frame is held as well by any buffer that reads the same below its length (R56, R107). -/
theorem HoldsFrame.withFrameBuf {s : State} {b : Frame} {m : Memory} (hb : HoldsFrame s b)
    (hm : ∀ a, a < b.length → Memory.read m a = Memory.read s.frameBuf a) : HoldsFrame { s with frameBuf := m } b := by
  obtain ⟨n, hn, hl, hr⟩ := hb
  exact ⟨n, hn, hl, fun i hi => (hm i hi).trans (hr i hi)⟩

/-- DECODE after a finished encoding parses the encoded frame. -/
theorem exec_decode_finishEncode {f : Frame} {s : State} (he : s.engine = .idle) (hf : f.length ≤ Config.bufCap) :
    exec .decode (finishEncode f s) = .next (writeResults (decodeFn f) (finishEncode f s)) :=
  exec_decode he (finishEncode_effect s hf).1

/-! ### The obligations -/

/-- Settles O13: with every operand written ENCODE is refused for the capacity or finishes the untagged frame. -/
theorem encodeFollowsItsRule : Obligations.EncodeFollowsItsRule := by
  refine ⟨decodeWord_encodeWord .encode, fun s => ⟨refusedOutsideIdle (by decide) s, faultsOnUnwritten _ s, ?_⟩⟩
  intro dst src et p he hd hs ht hp
  refine ⟨exec_encode_overCapacity he hd hs ht hp, fun h => ⟨_, exec_encode_fits he hd hs ht hp h, rfl, ?_⟩⟩
  have hl := untaggedFrame_length dst src et p
  rw [finishEncode_frameLen, ← hl]
  exact ⟨rfl, finishEncode_effect s (hl ▸ h)⟩

/-- Settles O14: with every operand written ENCODE.V is refused for the capacity, else changes `STATUS` alone for an illegal
VLAN id, else finishes the tagged frame. -/
theorem encodeVFollowsItsRule : Obligations.EncodeVFollowsItsRule := by
  refine ⟨decodeWord_encodeWord .encodeV, fun s => ⟨refusedOutsideIdle (by decide) s, faultsOnUnwritten _ s, ?_⟩⟩
  intro dst src et v p he hd hs ht hv hp
  refine ⟨exec_encodeV_overCapacity he hd hs ht hv hp, exec_encodeV_illegalId he hd hs ht hv hp,
    fun h hi => ⟨_, exec_encodeV_fits he hd hs ht hv hp h hi, rfl, ?_⟩⟩
  have hl := taggedFrame_length dst src v et p
  rw [finishEncode_frameLen, ← hl]
  exact ⟨rfl, finishEncode_effect s (hl ▸ h)⟩

/-- Settles O15: DECODE writes what `decodeFn` answers for each length and form of the frame. -/
theorem decodeFollowsItsRule : Obligations.DecodeFollowsItsRule := by
  refine ⟨decodeWord_encodeWord .decode, fun s => ⟨refusedOutsideIdle (by decide) s, faultsOnUnwritten _ s, ?_⟩⟩
  intro b he hb
  refine ⟨_, exec_decode he hb, fun h => ?_, fun h => ?_, fun hl ht => ?_, fun hl ht => ?_, writeResults_keeps _ s⟩
  · rw [decodeFn_short h]
    exact ⟨rfl, rfl, rfl, rfl, rfl, rfl, rfl, rfl, rfl⟩
  · obtain ⟨hd, hs⟩ := parseFrame_addresses b
    rw [decodeFn_long h, ← hd, ← hs]
    exact ⟨rfl, rfl, rfl⟩
  · rw [decodeFn_tagged hl ht]
    exact ⟨rfl, rfl, rfl, rfl, rfl, rfl⟩
  · rw [decodeFn_untagged hl fun h => ht h.symm]
    exact ⟨rfl, rfl, rfl, rfl, rfl, rfl⟩

/-- Settles O16: DECODE reads ENCODE's frame back as its operands, or as the tag that its payload begins with. -/
theorem untaggedRoundTrip : Obligations.UntaggedRoundTrip := by
  intro s dst src et p he hd hs ht hp h
  have hl := untaggedFrame_length dst src et p
  have hf : (untaggedFrame dst src et p).length ≤ Config.bufCap := hl ▸ h
  have hh := (finishEncode_effect s hf).1
  refine ⟨_, _, exec_encode_fits he hd hs ht hp h, exec_decode_finishEncode he hf, fun hu => ?_, ?_⟩
  · rw [writeResults_frameBuf, decodeFn_untaggedFrame dst src et p hu]
    exact ⟨rfl, rfl, rfl, rfl, rfl, rfl, rfl, fun k => hh.read_payload hl (untaggedFrame_payload dst src et p)⟩
  · rintro rfl h4
    rw [writeResults_frameBuf, decodeFn_untaggedFrame_tpid dst src p h4]
    have hpl : (p.drop 4).length = p.length - 4 := List.length_drop
    refine ⟨rfl, rfl, rfl, rfl, rfl, rfl, fun k hk => hh.read_payload (by omega) (fun j => ?_) (hpl ▸ hk)⟩
    rw [List.getElem?_drop, ← untaggedFrame_payload dst src 0x8100#16 p (4 + j), ← Nat.add_assoc]

/-- Settles O17: the tag, the EtherType and the payload of ENCODE.V's frame read back as its operands. -/
theorem vlanRoundTrip : Obligations.VlanRoundTrip := by
  intro s dst src et v p he hd hs ht hv hi hp h
  have hl := taggedFrame_length dst src v et p
  have hf : (taggedFrame dst src v et p).length ≤ Config.bufCap := hl ▸ h
  have hh := (finishEncode_effect s hf).1
  refine ⟨_, _, exec_encodeV_fits he hd hs ht hv hp h hi, exec_decode_finishEncode he hf, ?_⟩
  rw [writeResults_frameBuf, decodeFn_taggedFrame]
  exact ⟨rfl, rfl, congrArg some (vidOf_toNat hi), rfl, rfl, rfl, rfl,
    fun k => hh.read_payload hl (taggedFrame_payload dst src v et p), hh.read (by omega), hh.read (by omega)⟩

/-- Settles O18: by `decodeFn`'s answers, and because a frame is held by any buffer that agrees with it below its length. -/
theorem shortFramesDecode : Obligations.ShortFramesDecode := by
  intro s b he hb
  refine ⟨fun h => ⟨_, exec_decode he hb, ?_⟩, fun ht h14 h18 => ⟨_, exec_decode he hb, ?_⟩,
    fun m hm => ⟨_, _, exec_decode he hb, exec_decode he (hb.withFrameBuf hm), writeResults_withFrameBuf _ s m⟩⟩
  · rw [decodeFn_short h]
    rfl
  · rw [decodeFn_untagged h14 (by omega)]
    exact ⟨rfl, rfl⟩

/-- Settles O19: a command that completes with `OK` has finished a frame with the payload operand at 14 or at 18. -/
theorem encodeLengthAndPayloadOffset : Obligations.EncodeLengthAndPayloadOffset := by
  intro s t hm hok
  refine ⟨fun h => ?_, fun h => ?_⟩
  · obtain ⟨dst, src, et, p, hp, hc, rfl⟩ := encodeRule_ok (ownRule_of_sameMarks h hm)
    have hl := untaggedFrame_length dst src et p
    exact finishEncode_payload_at hp hl (hl ▸ hc) (untaggedFrame_payload dst src et p)
  · rcases encodeVRule_ok (ownRule_of_sameMarks h hm) with rfl | ⟨dst, src, v, et, p, hp, hc, rfl⟩
    · cases hok
    · have hl := taggedFrame_length dst src v et p
      exact finishEncode_payload_at hp hl (hl ▸ hc) (taggedFrame_payload dst src v et p)

/-- Settles O8: the two layouts are `untaggedFrame` and `taggedFrame`; a legal id is its own TCI. -/
theorem encodeFnLayout : Obligations.EncodeFnLayout := by
  intro dst src et p v
  refine ⟨rfl, untaggedFrame_length dst src et p, encodeFn_illegalId dst src et p, fun h => ?_⟩
  have hv : (v.extractLsb' 0 12).setWidth 16 = v := setWidth_vidOf h
  exact ⟨_, encodeFn_tagged dst src et p h, taggedFrame_length dst src v et p, by rw [hv]; rfl, hv⟩

/-- Settles O9: one clause for each of R101's cases. -/
theorem decodeFnFields : Obligations.DecodeFnFields :=
  fun _ => ⟨decodeFn_short, decodeFn_tagged, fun hl ht => decodeFn_untagged hl fun h => ht h.symm⟩

end Sys2Proof.Machine
end

section
/-! PROOFS. The Echo Responder of 41_responder.md: the reply and its symmetry (O29), FILTER, SWAP, SETFILTER, START and STOP
(O20–O24), the filter value `0x8100` (O25), and the two steps of the loop (O26–O28). -/

namespace Sys2Proof.Machine

/-! ### The fields of a frame, byte by byte -/

/-- Words put together are equal exactly when their parts are. -/
theorem append_bits_eq_iff {m n : Nat} {x x' : BitVec m} {y y' : BitVec n} : x ++ y = x' ++ y' ↔ x = x' ∧ y = y' := by
  refine ⟨fun h => ⟨?_, ?_⟩, fun ⟨hx, hy⟩ => hx ▸ hy ▸ rfl⟩
  · simpa only [BitVec.extractLsb'_append_eq_left] using congrArg (BitVec.extractLsb' n m) h
  · simpa only [BitVec.extractLsb'_append_eq_right] using congrArg (BitVec.extractLsb' 0 n) h

/-- Two address fields are equal exactly when their six bytes are (R12). -/
theorem be48_eq_iff {b c : Frame} {i j : Nat} : be48 b i = be48 c j ↔ ∀ k, k < 6 → byteAt b (i + k) = byteAt c (j + k) := by
  have h : be48 b i = be48 c j ↔ _ :=
    append_bits_eq_iff.trans <| and_congr_right' <| append_bits_eq_iff.trans <| and_congr_right' <|
      append_bits_eq_iff.trans <| and_congr_right' <| append_bits_eq_iff.trans <| and_congr_right' append_bits_eq_iff
  refine h.trans ⟨fun ⟨h0, h1, h2, h3, h4, h5⟩ k hk => ?_, fun h => ?_⟩
  · interval_cases k <;> assumption
  · exact ⟨h 0 (by decide), h 1 (by decide), h 2 (by decide), h 3 (by decide), h 4 (by decide), h 5 (by decide)⟩

/-- A byte within a frame, as the list holds it. -/
theorem getElem?_eq_byteAt {b : Frame} {i : Nat} (h : i < b.length) : b[i]? = some (byteAt b i) := by
  simp [byteAt, List.getD_eq_getElem?_getD, h]

theorem byteAt_congr {b f : Frame} {i j : Nat} (h : b[i]? = f[j]?) : byteAt b i = byteAt f j := by
  simp only [byteAt, List.getD_eq_getElem?_getD, h]

/-! ### The reply -/

/-- Bytes 0 to 5 of a reply are the source address of the frame it answers (R131). -/
theorem replyFn_destination {b : Frame} (h : 12 ≤ b.length) {k : Nat} (hk : k < 6) : (replyFn b)[k]? = b[6 + k]? := by
  obtain ⟨d, s, r, hd, hs, rfl⟩ := frame_parts h
  rw [replyFn_append r hd hs]
  simp [List.getElem?_append, hd, hs, hk]

/-- Bytes 6 to 11 of a reply are the destination address of the frame it answers (R131). -/
theorem replyFn_source {b : Frame} (h : 12 ≤ b.length) {k : Nat} (hk : k < 6) : (replyFn b)[6 + k]? = b[k]? := by
  obtain ⟨d, s, r, hd, hs, rfl⟩ := frame_parts h
  rw [replyFn_append r hd hs]
  simp [List.getElem?_append, hd, hs, hk]

theorem replyFn_drop {b : Frame} (h : 12 ≤ b.length) : (replyFn b).drop 12 = b.drop 12 := by
  obtain ⟨d, s, r, hd, hs, rfl⟩ := frame_parts h
  rw [replyFn_append r hd hs, List.drop_left' (by simp [hd, hs]), List.drop_left' (by simp [hd, hs])]

/-- Every byte from 12 on is copied (R131). -/
theorem replyFn_rest {b : Frame} (h : 12 ≤ b.length) {a : Nat} (ha : 12 ≤ a) : (replyFn b)[a]? = b[a]? := by
  obtain ⟨k, rfl⟩ := Nat.exists_eq_add_of_le ha
  rw [← List.getElem?_drop, replyFn_drop h, List.getElem?_drop]

/-- The reply to a reply is the frame (R145). -/
theorem replyFn_replyFn {b : Frame} (h : 12 ≤ b.length) : replyFn (replyFn b) = b := by
  obtain ⟨d, s, r, hd, hs, rfl⟩ := frame_parts h
  rw [replyFn_append r hd hs, replyFn_append r hs hd]

/-- A frame with equal addresses is its own reply. -/
theorem replyFn_eq_self {b : Frame} (h : 12 ≤ b.length) (ha : be48 b 0 = be48 b 6) : replyFn b = b := by
  have hb : ∀ k, k < 6 → b[k]? = b[6 + k]? := fun k hk => by
    rw [getElem?_eq_byteAt (by omega), getElem?_eq_byteAt (by omega), ← be48_eq_iff.mp ha k hk, Nat.zero_add]
  refine List.ext_getElem? fun k => ?_
  rcases Nat.lt_or_ge k 6 with h6 | h6
  · rw [replyFn_destination h h6, hb k h6]
  · rcases Nat.lt_or_ge k 12 with h12 | h12
    · obtain ⟨j, rfl⟩ := Nat.exists_eq_add_of_le h6
      rw [replyFn_source h (by omega), hb j (by omega)]
    · exact replyFn_rest h h12

theorem be48_replyFn {b : Frame} (h : 12 ≤ b.length) : be48 (replyFn b) 0 = be48 b 6 ∧ be48 (replyFn b) 6 = be48 b 0 :=
  ⟨be48_eq_iff.mpr fun k hk => byteAt_congr (by rw [Nat.zero_add, replyFn_destination h hk]),
    be48_eq_iff.mpr fun k hk => byteAt_congr (by rw [Nat.zero_add, replyFn_source h hk])⟩

theorem be16_replyFn {b : Frame} (h : 12 ≤ b.length) {i : Nat} (hi : 12 ≤ i) : be16 (replyFn b) i = be16 b i := by
  rw [be16, be16, byteAt_congr (replyFn_rest h hi), byteAt_congr (replyFn_rest h (Nat.le_succ_of_le hi))]

/-- A reply parses as the frame does, with the addresses exchanged: tag, EtherType and payload stand from byte 12 on (R145). -/
theorem parseFrame_replyFn {b : Frame} (h : 12 ≤ b.length) :
    parseFrame (replyFn b) = { parseFrame b with dst := be48 b 6, src := be48 b 0 } := by
  obtain ⟨hd, hs⟩ := be48_replyFn h
  simp only [parseFrame, hd, hs, replyFn_length h, be16_replyFn h (le_refl 12), be16_replyFn h (show 12 ≤ 14 by decide),
    be16_replyFn h (show 12 ≤ 16 by decide)]
  split <;> rfl

theorem decodeFn_replyFn {b : Frame} (h : 14 ≤ b.length) :
    decodeFn (replyFn b) = .parsed { parseFrame b with dst := be48 b 6, src := be48 b 0 } := by
  rw [decodeFn_long (by rw [replyFn_length (by omega)]; exact h), parseFrame_replyFn (by omega)]

/-! ### The filter -/

theorem filterFn_short {b : Frame} (h : b.length < 14) (F : Half) : filterFn b F = .reject := by
  simp only [filterFn, decodeFn_short h]

theorem filterFn_long {b : Frame} (h : 14 ≤ b.length) (F : Half) :
    filterFn b F = if (parseFrame b).etype = F then .pass else .skip := by
  simp only [filterFn, decodeFn_long h]

theorem filterFn_replyFn {b : Frame} (h : 14 ≤ b.length) (F : Half) : filterFn (replyFn b) F = filterFn b F := by
  have hl := replyFn_length (b := b) (by omega)
  rw [filterFn_long (hl ▸ h), parseFrame_replyFn (by omega), filterFn_long h]

/-- The effective EtherType of a frame of 14 bytes or more is the one it parses with (R74). -/
theorem effectiveEtype_long {b : Frame} (h : 14 ≤ b.length) : effectiveEtype b = some (parseFrame b).etype := by
  obtain ⟨-, -, hp⟩ := decodedEtypeAndPayload b
  obtain ⟨-, he, -⟩ := hp _ (decodeFn_long h)
  exact he

/-- The effective EtherType alone decides (R130). -/
theorem filterFn_of_effectiveEtype {b : Frame} {e : Half} (h : effectiveEtype b = some e) (F : Half) :
    filterFn b F = if e = F then .pass else .skip := by
  rcases Nat.lt_or_ge b.length 14 with hl | hl
  · rw [effectiveEtype_of_reject (frameForm_reject hl)] at h
    cases h
  · rw [effectiveEtype_long hl] at h
    cases h
    exact filterFn_long hl F

theorem filterFn_eq_pass_iff (b : Frame) (F : Half) : filterFn b F = .pass ↔ effectiveEtype b = some F := by
  rcases Nat.lt_or_ge b.length 14 with hl | hl
  · simp [filterFn_short hl, effectiveEtype_of_reject (frameForm_reject hl)]
  · simp [filterFn_long hl, effectiveEtype_long hl]

/-! ### FILTER and SWAP -/

/-- Placing a frame as long as the one held makes it the frame held (R34, R133). -/
theorem HoldsFrame.placeFrame {s : State} {b f : Frame} (hb : HoldsFrame s b) (hl : f.length = b.length) :
    HoldsFrame (placeFrame f s) f := by
  obtain ⟨n, hn, hlen, -⟩ := hb
  exact ⟨n, hn, hlen.trans hl.symm, fun _ => Memory.read_writeBytes_of_lt _ _⟩

/-- Where the placed frame has a byte of the frame held before, `FRAME_BUF` reads as it did at that byte's index. -/
theorem read_placeFrame {s : State} {b f : Frame} (hb : HoldsFrame s b) (hl : f.length = b.length) {a c : Nat}
    (ha : a < b.length) (hc : c < b.length) (h : f[a]? = b[c]?) :
    Memory.read (placeFrame f s).frameBuf a = Memory.read s.frameBuf c := by
  rw [(hb.placeFrame hl).read (by omega), h, hb.read hc]

/-- Where the placed frame has the byte it replaces, or has ended, `FRAME_BUF` reads as before. -/
theorem read_placeFrame_same {s : State} {b f : Frame} (hb : HoldsFrame s b) (hl : f.length = b.length) {a : Nat}
    (h : f[a]? = b[a]?) : Memory.read (placeFrame f s).frameBuf a = Memory.read s.frameBuf a := by
  rcases Nat.lt_or_ge a b.length with ha | ha
  · exact read_placeFrame hb hl ha ha h
  · exact Memory.read_writeBytes_of_length_le f s.frameBuf (by omega)

/-- Writing the frame and `STATUS` leaves every other part of the state (R133). -/
theorem setStatus_placeFrame_keeps (c : StatusCode) (f : Frame) (s : State) :
    SameOperands s (setStatus c (placeFrame f s)) ∧ SameResults s (setStatus c (placeFrame f s)) ∧
    SamePayload s (setStatus c (placeFrame f s)) ∧ SameControl s (setStatus c (placeFrame f s)) ∧
    SameMarks s (setStatus c (placeFrame f s)) :=
  ⟨by simp [SameOperands], by simp [SameResults], by simp [SamePayload], by simp [SameControl], by simp [SameMarks]⟩

section
variable {s : State} {b : Frame} (he : s.engine = .idle) (hb : HoldsFrame s b)
include he hb

theorem exec_filter : exec .filter s = .next (setStatus (statusOfFilter (filterFn b s.filterEtype)) s) := by
  rw [exec_idle _ he, ownRule, filterRule, (frameOperand_eq_ok_iff s b).mpr hb, except_bind_ok, settle_ok]

/-- SWAP's rule on a held frame (R133). -/
theorem exec_swap :
    exec .swap s = .next (if b.length < 14 then setStatus .reject s else setStatus .ok (placeFrame (replyFn b) s)) := by
  rw [exec_idle _ he, ownRule, swapRule, (frameOperand_eq_ok_iff s b).mpr hb, except_bind_ok, ← apply_ite Except.ok,
    settle_ok]

theorem exec_swap_short (h : b.length < 14) : exec .swap s = .next (setStatus .reject s) := by
  rw [exec_swap he hb, if_pos h]

theorem exec_swap_reply (h : 14 ≤ b.length) : exec .swap s = .next (setStatus .ok (placeFrame (replyFn b) s)) := by
  rw [exec_swap he hb, if_neg (Nat.not_lt.mpr h)]

end

/-! ### SETFILTER, START and STOP -/

theorem exec_setfilter {s : State} {et : Half} (he : s.engine = .idle) (ht : s.opEtype = some et) :
    exec .setfilter s = .next { s with filterEtype := et, status := .ok } := by
  rw [exec_idle _ he, ownRule, setfilterRule, ht, need_some, except_bind_ok, settle_ok, setStatus]

theorem exec_start {s : State} (he : s.engine = .idle) :
    exec .start s = .next { s with engine := .listen, status := .ok } :=
  exec_idle .start he

theorem exec_stop_terminated {s : State} (he : s.engine = .terminated) :
    exec .stop s = .next (recordRefusal (.commandInState .stop .terminated) s) := by
  rw [exec_eq, command_refused _ (by rw [he]; rfl), he]

theorem exec_stop {s : State} (he : s.engine ≠ .terminated) : exec .stop s = .next (stopRule s) := by
  rw [exec_eq, command_allowed _ ((allowed_iff _ _).mpr (.inr ⟨rfl, he⟩)), ownRule, settle_ok]

/-- No command is allowed in `TERMINATED` and no MEDIUM event is taken there, so only reset leaves it (R22, R137). -/
theorem step_of_terminated {s t : State} (he : s.engine = .terminated) (h : step s = .next t) :
    t.engine = .terminated ∨ NextIsReset s := by
  cases step_effect h with
  | command i u ins hc ha hu h => simp [AllowedIn, he] at ha
  | receive f hx hl hf h => cases he.symm.trans hl
  | transmitted a r hx hw hr h => cases he.symm.trans hw
  | reset hx h => exact .inr hx
  | nothing h => rw [h]; exact .inl he
  | refusal m h => rw [h]; exact .inl he
  | fault n h => rw [h]; exact .inl he
  | read v h => rw [h]; exact .inl he
  | register n v ha hw hl h => rw [h]; exact .inl (by simp [he])
  | byte b i v hi h => rw [h]; exact .inl (by simp [he])

/-! ### The responder's loop -/

/-- A frame that does not pass leaves its `RX` event alone (R141). -/
theorem rspRx_not_pass {f : Frame} {s : State} (h : filterFn f s.filterEtype ≠ .pass) :
    rspRx f s = { s with hist := s.hist ++ [.rx f] } := by
  cases hf : filterFn f s.filterEtype with
  | reject => simp only [rspRx, hf, emit]
  | skip => simp only [rspRx, hf, emit]
  | pass => exact absurd hf h

/-- A frame that passes is answered: its reply is sent and pending (R141). -/
theorem rspRx_pass {f : Frame} {s : State} (h : filterFn f s.filterEtype = .pass) :
    rspRx f s = { s with
      hist := s.hist ++ [.rx f, .tx (replyFn f)], txPend := some (replyFn f), engine := .txWait } := by
  simp only [rspRx, h, emit, List.append_assoc, List.singleton_append]

theorem takeDelivery_listen {f : Frame} {s : State} (he : s.engine = .listen) (hf : f.length ≤ Config.bufCap) :
    takeDelivery f s = .next (rspRx f s) := by
  simp only [takeDelivery, he, if_pos hf]

theorem takeDelivery_tooLong {f : Frame} {s : State} (he : s.engine = .listen) (hf : Config.bufCap < f.length) :
    takeDelivery f s = .fault (.deliveryOverCapacity f.length) := by
  simp only [takeDelivery, he, if_neg (Nat.not_le.mpr hf)]

theorem takeDelivery_not_listen {s : State} (f : Frame) (he : s.engine ≠ .listen) : takeDelivery f s = .next s := by
  unfold takeDelivery
  split
  · exact absurd ‹_› he
  all_goals rfl

theorem takeAnswer_pending {a : TxAnswer} {r : Frame} {s : State} (he : s.engine = .txWait) (hr : s.txPend = some r) :
    takeAnswer a s =
      { s with hist := s.hist ++ [answerEvent a r], txPend := none, engine := .listen } := by
  simp only [takeAnswer, he, hr, rspTxDone, emit]

theorem takeAnswer_nothing_pending {s : State} (a : TxAnswer) (h : ¬(s.engine = .txWait ∧ ∃ r, s.txPend = some r)) :
    takeAnswer a s = s := by
  unfold takeAnswer
  split
  · exact absurd ⟨‹_›, _, ‹_›⟩ h
  · rfl

/-- In `LISTEN` a step that takes a delivery that fits is the receive step (R141). -/
theorem step_deliver {f : Frame} {s : State} {rest : List Input} (hs : s.inputs = .deliver f :: rest)
    (he : s.engine = .listen) (hf : f.length ≤ Config.bufCap) : step s = .next (rspRx f { s with inputs := rest }) :=
  (step_of_inputs hs).trans (takeDelivery_listen he hf)

/-- In `TX_WAIT` a step that takes an answer is the transmit-result step for the pending reply (R142). -/
theorem step_answer {a : TxAnswer} {r : Frame} {s : State} {rest : List Input} (hs : s.inputs = .answer a :: rest)
    (he : s.engine = .txWait) (hr : s.txPend = some r) :
    step s = .next { s with inputs := rest, hist := s.hist ++ [answerEvent a r], txPend := none, engine := .listen } :=
  (step_of_inputs hs).trans (congrArg Host.Outcome.next (takeAnswer_pending he hr))

/-- The states that look the same to the responder's loop: it reads `STATE`, `FILTER_ETYPE` and `TX_PEND` alone (R140). -/
def SameResponder (s u : State) : Prop := u.engine = s.engine ∧ u.filterEtype = s.filterEtype ∧ u.txPend = s.txPend

/-- What a responder step writes: `STATE` becomes `e`, `TX_PEND` becomes `p`, and `H` gains `es` (R140). -/
def respond (e : EngineState) (p : Option Frame) (es : List HistEvent) (s : State) : State :=
  { s with engine := e, txPend := p, hist := s.hist ++ es }

/-- A step that does nothing, as a responder step. -/
theorem respond_nothing (s : State) : respond s.engine s.txPend [] s = s := by
  rw [respond, List.append_nil]

/-- A delivery that is taken makes one and the same move in every state that looks the same to the responder (R140, R141). -/
theorem takeDelivery_respond {f : Frame} {s t : State} (h : takeDelivery f s = .next t) :
    ∃ e p es, ∀ u, SameResponder s u → takeDelivery f u = .next (respond e p es u) := by
  by_cases he : s.engine = .listen
  · by_cases hl : f.length ≤ Config.bufCap
    · by_cases hf : filterFn f s.filterEtype = .pass
      · refine ⟨.txWait, some (replyFn f), [.rx f, .tx (replyFn f)], fun u ⟨hu, hF, _⟩ => ?_⟩
        rw [takeDelivery_listen (hu.trans he) hl, rspRx_pass (hF ▸ hf), respond]
      · refine ⟨s.engine, s.txPend, [.rx f], fun u ⟨hu, hF, hp⟩ => ?_⟩
        rw [takeDelivery_listen (hu.trans he) hl, rspRx_not_pass (hF ▸ hf), respond, ← hu, ← hp]
    · cases h.symm.trans (takeDelivery_tooLong he (Nat.not_le.mp hl))
  · refine ⟨s.engine, s.txPend, [], fun u ⟨hu, _, hp⟩ => ?_⟩
    rw [takeDelivery_not_listen f (hu ▸ he), ← hu, ← hp, respond_nothing]

/-- An answer makes one and the same move in every state that looks the same to the responder (R140, R142). -/
theorem takeAnswer_respond (a : TxAnswer) (s : State) :
    ∃ e p es, ∀ u, SameResponder s u → takeAnswer a u = respond e p es u := by
  by_cases h : s.engine = .txWait ∧ ∃ r, s.txPend = some r
  · obtain ⟨he, r, hr⟩ := h
    refine ⟨.listen, none, [answerEvent a r], fun u ⟨hu, _, hp⟩ => ?_⟩
    rw [takeAnswer_pending (hu.trans he) (hp.trans hr), respond]
  · refine ⟨s.engine, s.txPend, [], fun u ⟨hu, _, hp⟩ => ?_⟩
    rw [takeAnswer_nothing_pending a (by rwa [hu, hp]), ← hu, ← hp, respond_nothing]

/-- A MEDIUM event that is taken makes one move in every state that looks the same to the responder (R140). -/
theorem takeInput_respond {i : Input} {s t : State} (hi : (∃ f, i = .deliver f) ∨ ∃ a, i = .answer a)
    (h : takeInput i s = .next t) : ∃ e p es, ∀ u, SameResponder s u → takeInput i u = .next (respond e p es u) := by
  rcases hi with ⟨f, rfl⟩ | ⟨a, rfl⟩
  · exact takeDelivery_respond h
  · obtain ⟨e, p, es, hm⟩ := takeAnswer_respond a s
    exact ⟨e, p, es, fun u hu => congrArg Host.Outcome.next (hm u hu)⟩

/-! ### The obligations -/

/-- Settles O29: from byte 12 on the reply is the frame, so only the addresses of its parse differ. -/
theorem replySymmetry : Obligations.ReplySymmetry := by
  intro f h
  have h12 : 12 ≤ f.length := by omega
  obtain ⟨hd, hs⟩ := be48_replyFn h12
  exact ⟨hd, hs, replyFn_drop h12, ⟨_, _, decodeFn_long h, decodeFn_replyFn h, rfl, rfl, rfl, rfl, rfl⟩,
    filterFn_replyFn h, replyFn_replyFn h12⟩

/-- Settles O20: FILTER writes `filterFn`'s answer, which the length and the effective EtherType decide. -/
theorem filterFollowsItsRule : Obligations.FilterFollowsItsRule := by
  refine ⟨decodeWord_encodeWord .filter, fun s => ⟨refusedOutsideIdle (by decide) s, faultsOnUnwritten _ s, ?_⟩⟩
  intro b he hb
  refine ⟨fun h => ?_, fun e h => ?_⟩
  · rw [exec_filter he hb, filterFn_short h]
    rfl
  · rw [exec_filter he hb, filterFn_of_effectiveEtype h, apply_ite statusOfFilter]
    rfl

/-- Settles O21: SWAP places the reply over the frame, whose bytes are the frame's with the addresses exchanged. -/
theorem swapFollowsItsRule : Obligations.SwapFollowsItsRule := by
  refine ⟨decodeWord_encodeWord .swap, fun s => ⟨refusedOutsideIdle (by decide) s, faultsOnUnwritten _ s, ?_⟩⟩
  intro b he hb
  refine ⟨exec_swap_short he hb, fun h => ⟨_, exec_swap_reply he hb h, rfl, rfl, ?_⟩⟩
  have h12 : 12 ≤ b.length := by omega
  have hl := replyFn_length h12
  refine ⟨fun k hk => ?_, fun k hk => ?_, fun a ha => ?_, hb.placeFrame hl, replyFn_replyFn h12, fun heq a => ?_,
    setStatus_placeFrame_keeps .ok _ s⟩
  · exact read_placeFrame hb hl (by omega) (by omega) (replyFn_destination h12 hk)
  · exact read_placeFrame hb hl (by omega) (by omega) (replyFn_source h12 hk)
  · exact read_placeFrame_same hb hl (replyFn_rest h12 ha)
  · exact read_placeFrame_same hb hl (by rw [replyFn_eq_self h12 heq])

/-- Settles O24: STOP's two outcomes at the gate, and what a step can do in `TERMINATED`. -/
theorem stopFollowsItsRule : Obligations.StopFollowsItsRule := by
  refine ⟨decodeWord_encodeWord .stop, fun s => ⟨exec_stop_terminated, exec_stop, fun he => ⟨fun t h hne => ?_, ?_⟩⟩⟩
  · exact (step_of_terminated he h).resolve_left hne
  · exact fun n v rest hs hn hv => step_hrd hs (portRead_written hn hv)

/-- Settles O26: outside `LISTEN` the delivery is not taken; in it the filter's answer decides what is recorded. -/
theorem receiveStep : Obligations.ReceiveStep := by
  intro s f rest hs
  refine ⟨fun he => ⟨_, (step_of_inputs hs).trans (takeDelivery_not_listen f he), rfl, rfl, rfl⟩, fun he hf => ?_⟩
  rw [step_deliver hs he hf]
  refine ⟨fun h => ?_, fun e h hne => ?_, fun h => ?_⟩
  · rw [rspRx_not_pass (by rw [filterFn_short h]; simp)]
  · rw [rspRx_not_pass (by rw [filterFn_of_effectiveEtype h, if_neg hne]; simp)]
  · rw [rspRx_pass (by rw [filterFn_eq_pass_iff, h])]

/-- Settles O28: the move a MEDIUM event makes is the same in both states, and writes the responder's state alone. -/
theorem responderTouchesOnlyItsState : Obligations.ResponderTouchesOnlyItsState := by
  intro s u i rest rest' hi hs hu he hF hp t h
  rw [step_of_inputs hs] at h
  obtain ⟨e, p, es, hm⟩ := takeInput_respond hi h
  cases h.symm.trans (hm _ ⟨rfl, rfl, rfl⟩)
  exact ⟨rfl, _, es, (step_of_inputs hu).trans (hm _ ⟨he, hF, hp⟩), rfl, rfl, rfl, rfl⟩

/-- Settles O22: in `IDLE`, with `OP_ETYPE` written, the rule completes for every value. -/
theorem setfilterFollowsItsRule : Obligations.SetfilterFollowsItsRule :=
  ⟨decodeWord_encodeWord .setfilter, rfl, fun s => ⟨refusedOutsideIdle (by decide) s, faultsOnUnwritten _ s,
    fun _ => exec_setfilter⟩⟩

/-- Settles O23: START reads nothing, and the gate refuses all but STOP in `LISTEN`. -/
theorem startFollowsItsRule : Obligations.StartFollowsItsRule := by
  refine ⟨decodeWord_encodeWord .start, fun s => ⟨refusedOutsideIdle (by decide) s, fun he => ⟨exec_start he, ?_⟩⟩⟩
  exact fun i hi => refusedOutsideIdle hi { s with engine := .listen, status := .ok } (by simp)

/-- Settles O25: a frame passes when its effective EtherType is `0x8100`, which each form of a frame reads at its own
offset. -/
theorem filterValue8100 : Obligations.FilterValue8100 := by
  refine ⟨fun f => ?_, fun s => exec_setfilter⟩
  rw [filterFn_eq_pass_iff]
  rcases frame_length_tpid_cases f with h | ⟨hl, ht⟩ | ⟨hl, ht⟩
  · rw [effectiveEtype_of_reject (frameForm_reject h)]
    exact iff_of_false nofun (by omega)
  · rw [effectiveEtype_of_tagged (frameForm_tagged hl ht), Option.some.injEq]
    refine ⟨fun h => .inr ⟨hl, ht, h⟩, ?_⟩
    rintro (⟨-, h17, -⟩ | ⟨-, -, h⟩)
    · omega
    · exact h
  · rw [effectiveEtype_of_untagged (frameForm_untagged hl ht), Option.some.injEq]
    refine ⟨fun h => .inl ⟨hl, ?_, h⟩, ?_⟩
    · have h18 : ¬18 ≤ f.length := fun h18 => ht ⟨h, h18⟩
      omega
    · rintro (⟨-, -, h⟩ | ⟨-, h, -⟩)
      · exact h
      · exact h

/-- Settles O27: both answers are `takeAnswer` on the pending reply. -/
theorem transmitResultStep : Obligations.TransmitResultStep :=
  fun _ _ _ he hr => ⟨fun hs => step_answer hs he hr, fun hs => step_answer hs he hr⟩

end Sys2Proof.Machine
end

section
/-! PROOFS. The reply-qualification filter of 42_probe_filter.md: what `qualifyFn` answers in each mode (O38–O40), and the
commands QUALIFY.AE, QUALIFY.AEP and QUALIFY.A, which write that answer (O35–O37). -/

namespace Sys2Proof.Machine

/-! ### Equality of frames, and what each mode asks of one -/

/-- Two byte sequences are equal exactly when their lengths and all their bytes are (R171). -/
theorem frame_eq_iff_byteAt {f g : Frame} : f = g ↔ f.length = g.length ∧ ∀ k, k < f.length → byteAt f k = byteAt g k := by
  refine ⟨fun h => h ▸ ⟨rfl, fun _ _ => rfl⟩, fun ⟨hl, hb⟩ => List.ext_getElem? fun k => ?_⟩
  rcases Nat.lt_or_ge k f.length with hk | hk
  · rw [getElem?_eq_byteAt hk, getElem?_eq_byteAt (hl ▸ hk), hb k hk]
  · rw [List.getElem?_eq_none hk, List.getElem?_eq_none (hl ▸ hk)]

/-- The frame has 14 bytes or more, source `es` and destination `ed`: what mode A asks (R170). -/
abbrev HasAddresses (b : Frame) (es ed : Addr) : Prop := 14 ≤ b.length ∧ be48 b 6 = es ∧ be48 b 0 = ed

/-- The frame has the addresses and the effective EtherType `ee`: what modes AE and AEP ask (R170). -/
abbrev HasHeader (b : Frame) (es ed : Addr) (ee : Half) : Prop :=
  14 ≤ b.length ∧ be48 b 6 = es ∧ be48 b 0 = ed ∧ effectiveEtype b = some ee

/-! ### The frame that `decodeFn` parses -/

section
variable {b : Frame} {p : Parsed} (h : decodeFn b = .parsed p)
include h

theorem length_eq_parseFrame_of_parsed : 14 ≤ b.length ∧ p = parseFrame b := by
  rcases Nat.lt_or_ge b.length 14 with hl | hl
  · cases (decodeFn_short hl).symm.trans h
  · exact ⟨hl, DecodeResult.parsed.inj (h.symm.trans (decodeFn_long hl))⟩

theorem hasAddresses_iff_of_parsed (es ed : Addr) : HasAddresses b es ed ↔ p.src = es ∧ p.dst = ed := by
  obtain ⟨hl, rfl⟩ := length_eq_parseFrame_of_parsed h
  obtain ⟨hd, hs⟩ := parseFrame_addresses b
  rw [HasAddresses, hd, hs, and_iff_right hl]

theorem hasHeader_iff_of_parsed (es ed : Addr) (ee : Half) :
    HasHeader b es ed ee ↔ p.src = es ∧ p.dst = ed ∧ p.etype = ee := by
  obtain ⟨hl, rfl⟩ := length_eq_parseFrame_of_parsed h
  obtain ⟨hd, hs⟩ := parseFrame_addresses b
  rw [HasHeader, hd, hs, effectiveEtype_long hl, Option.some.injEq, and_iff_right hl]

/-- The payload is the slice that `qualifyFn` compares (R75, R170). -/
theorem framePayload_of_parsed : framePayload b = some (frameSlice b p.poff p.plen) := by
  obtain ⟨-, -, hp⟩ := decodedEtypeAndPayload b
  obtain ⟨-, -, -, -, hpay, hslice, -⟩ := hp p h
  rw [hpay, hslice]

/-- The payload is `ep` exactly when it has its length and its bytes (R171). -/
theorem framePayload_eq_iff_of_parsed (ep : Frame) :
    framePayload b = some ep ↔ p.plen = ep.length ∧ ∀ k, k < p.plen → byteAt b (p.poff + k) = byteAt ep k := by
  obtain ⟨-, -, hp⟩ := decodedEtypeAndPayload b
  obtain ⟨-, -, -, -, hpay, -, hlen⟩ := hp p h
  rw [hpay, Option.some.injEq, frame_eq_iff_byteAt, List.length_drop, ← hlen]
  simp only [byteAt_drop]

end

/-! ### The verdict in each mode -/

section
variable (b : Frame) (es ed : Addr) (ee : Half) (ep : Frame)

theorem qualifyFn_short {b : Frame} (h : b.length < 14) (mode : QualifyMode) : qualifyFn b es ed ee ep mode = .nonQual := by
  simp only [qualifyFn, decodeFn_short h]

/-- Mode A asks for the addresses (R170). -/
theorem qualifyFn_a : qualifyFn b es ed ee ep .a = if HasAddresses b es ed then .matched else .nonQual := by
  rcases Nat.lt_or_ge b.length 14 with hl | hl
  · rw [qualifyFn_short es ed ee ep hl, if_neg fun h => Nat.not_le.mpr hl h.1]
  · have hp := decodeFn_long hl
    simp [qualifyFn, hp, addressesMatch, hasAddresses_iff_of_parsed hp]

/-- Mode AE asks for the header (R170). -/
theorem qualifyFn_ae : qualifyFn b es ed ee ep .ae = if HasHeader b es ed ee then .matched else .nonQual := by
  rcases Nat.lt_or_ge b.length 14 with hl | hl
  · rw [qualifyFn_short es ed ee ep hl, if_neg fun h => Nat.not_le.mpr hl h.1]
  · have hp := decodeFn_long hl
    simp [qualifyFn, hp, addressesMatch, hasHeader_iff_of_parsed hp, and_assoc]

/-- Mode AEP asks for the header, and compares the payload of a frame that has it (R170, R171). -/
theorem qualifyFn_aep :
    qualifyFn b es ed ee ep .aep =
      if HasHeader b es ed ee then if framePayload b = some ep then .matched else .mismatched else .nonQual := by
  rcases Nat.lt_or_ge b.length 14 with hl | hl
  · rw [qualifyFn_short es ed ee ep hl, if_neg fun h => Nat.not_le.mpr hl h.1]
  · have hp := decodeFn_long hl
    simp [qualifyFn, hp, addressesMatch, hasHeader_iff_of_parsed hp, framePayload_of_parsed hp, and_assoc]

end

section
variable {b : Frame} {es ed : Addr} {ee : Half} {ep : Frame}

theorem qualifyFn_a_nonQual_iff : qualifyFn b es ed ee ep .a = .nonQual ↔ ¬HasAddresses b es ed := by
  rw [qualifyFn_a]
  split <;> simp [*]

theorem qualifyFn_ae_nonQual_iff : qualifyFn b es ed ee ep .ae = .nonQual ↔ ¬HasHeader b es ed ee := by
  rw [qualifyFn_ae]
  split <;> simp [*]

/-- The payload takes no part in qualification: mode AEP disqualifies what mode AE does (R174). -/
theorem qualifyFn_aep_nonQual_iff : qualifyFn b es ed ee ep .aep = .nonQual ↔ ¬HasHeader b es ed ee := by
  rw [qualifyFn_aep]
  split
  · split <;> simp [*]
  · simp [*]

end

/-! ### The commands -/

section
variable {s : State} {b ep : Frame} {es ed : Addr} {ee : Half} (he : s.engine = .idle) (hb : HoldsFrame s b)
  (hs : s.opSrc = some es) (hd : s.opDst = some ed) (ht : s.opEtype = some ee) (hp : HoldsPayload s ep)

include he hb hs hd ht in
theorem exec_qualifyAe :
    exec .qualifyAe s = .next (setStatus (statusOfVerdict (qualifyFn b es ed ee [] .ae)) s) := by
  simp only [exec_idle _ he, ownRule, qualifyAeRule, (frameOperand_eq_ok_iff s b).mpr hb, hs, hd, ht, need_some,
    except_bind_ok, settle_ok]

include he hb hs hd ht hp in
theorem exec_qualifyAep :
    exec .qualifyAep s = .next (setStatus (statusOfVerdict (qualifyFn b es ed ee ep .aep)) s) := by
  simp only [exec_idle _ he, ownRule, qualifyAepRule, (frameOperand_eq_ok_iff s b).mpr hb, hs, hd, ht,
    (payloadOperand_eq_ok_iff s ep).mpr hp, need_some, except_bind_ok, settle_ok]

include he hb hs hd in
theorem exec_qualifyA :
    exec .qualifyA s = .next (setStatus (statusOfVerdict (qualifyFn b es ed 0#16 [] .a)) s) := by
  simp only [exec_idle _ he, ownRule, qualifyARule, (frameOperand_eq_ok_iff s b).mpr hb, hs, hd, need_some,
    except_bind_ok, settle_ok]

end

/-! ### The obligations -/

/-- Settles O35: with its operands written QUALIFY.AE writes `MATCHED` when the frame has the expected header. -/
theorem qualifyAeFollowsItsRule : Obligations.QualifyAeFollowsItsRule := by
  refine ⟨decodeWord_encodeWord .qualifyAe, fun s => ⟨refusedOutsideIdle (by decide) s, faultsOnUnwritten _ s, ?_⟩⟩
  intro b es ed ee he hb hs hd ht
  rw [exec_qualifyAe he hb hs hd ht, qualifyFn_ae]
  exact ⟨fun h => by rw [if_pos h]; rfl, fun h => by rw [if_neg h]; rfl⟩

/-- Settles O36: the header decides first, and the payload only for a frame that has it. -/
theorem qualifyAepFollowsItsRule : Obligations.QualifyAepFollowsItsRule := by
  refine ⟨decodeWord_encodeWord .qualifyAep, fun s => ⟨refusedOutsideIdle (by decide) s, faultsOnUnwritten _ s, ?_⟩⟩
  intro b es ed ee ep he hb hs hd ht hp
  rw [exec_qualifyAep he hb hs hd ht hp, qualifyFn_aep]
  refine ⟨fun h => ?_, fun h => by rw [if_neg h]; rfl⟩
  rw [if_pos h]
  exact ⟨fun hq => by rw [if_pos hq]; rfl, fun hq => by rw [if_neg hq]; rfl⟩

/-- Settles O37: with its operands written QUALIFY.A writes `MATCHED` when the frame has the expected addresses. -/
theorem qualifyAFollowsItsRule : Obligations.QualifyAFollowsItsRule := by
  refine ⟨decodeWord_encodeWord .qualifyA, fun s => ⟨refusedOutsideIdle (by decide) s, faultsOnUnwritten _ s, ?_⟩⟩
  intro b es ed he hb hs hd
  rw [exec_qualifyA he hb hs hd, qualifyFn_a]
  exact ⟨fun h => by rw [if_pos h]; rfl, fun h => by rw [if_neg h]; rfl⟩

/-- Settles O39: a frame that qualifies is `MATCHED` when its payload is the expected one, else `MISMATCHED`. -/
theorem payloadEqualityIsExact : Obligations.PayloadEqualityIsExact := by
  intro b es ed ee ep p h hq
  have hh : HasHeader b es ed ee := not_not.mp fun hn => hq (qualifyFn_aep_nonQual_iff.mpr hn)
  rw [qualifyFn_aep, if_pos hh, ← framePayload_eq_iff_of_parsed h]
  refine ⟨by simp, fun hl => if_neg fun hpay => hl ?_⟩
  exact ((framePayload_eq_iff_of_parsed h ep).mp hpay).1

/-- Settles O38: what disqualifies is the negation of what each mode asks, and a conjunction fails when one part does. -/
theorem anyMismatchDisqualifies : Obligations.AnyMismatchDisqualifies := by
  intro b es ed ee ep p h
  rw [qualifyFn_ae_nonQual_iff, qualifyFn_aep_nonQual_iff, qualifyFn_a_nonQual_iff, hasHeader_iff_of_parsed h,
    hasAddresses_iff_of_parsed h, not_and_or, not_and_or, not_and_or]
  exact ⟨Iff.rfl, Iff.rfl, Iff.rfl⟩

/-- Settles O40: each mode's verdict depends on the frame through the addresses, the effective EtherType and the payload. -/
theorem tagTakesNoPartInQualification : Obligations.TagTakesNoPartInQualification := by
  intro b c es ed ee ep hb hc hd hs
  refine ⟨?_, fun ht => ⟨?_, fun hp => ?_⟩⟩
  · simp only [qualifyFn_a, HasAddresses, hb, hc, hd, hs]
  · simp only [qualifyFn_ae, HasHeader, hb, hc, hd, hs, ht]
  · simp only [qualifyFn_aep, HasHeader, hb, hc, hd, hs, ht, hp]

end Sys2Proof.Machine
end

section
/-! PROOFS. Reset (70_reset_and_hazards.md R210): what the reset input does, and the state that begins a run (O48). -/

namespace Sys2Proof.Machine

/-! ### What is unwritten after reset -/

/-- Neither buffer lists a byte after reset (R210). -/
@[simp] theorem bufOf_reset (b : Buf) : bufOf b State.reset = [] := by cases b <;> rfl

/-- The reset input leaves both buffers as the state that begins a run has them. -/
@[simp] theorem bufOf_resetEngine (b : Buf) (s : State) : bufOf b (resetEngine s) = bufOf b State.reset := by
  cases b <;> rfl

/-- `STATUS`, `STATE` and `FILTER_ETYPE` are the only registers that hold a value after reset (R210). -/
theorem regRead_reset_eq_none {n : RegName} (h1 : n ≠ .status) (h2 : n ≠ .state) (h3 : n ≠ .filterEtype) :
    regRead State.reset n = none := by
  cases n with
  | status => exact absurd rfl h1
  | state => exact absurd rfl h2
  | filterEtype => exact absurd rfl h3
  | _ => rfl

/-! ### The step of the reset input -/

theorem step_reset {s : State} {rest : List Input} (hs : s.inputs = .reset :: rest) :
    step s = .next (resetEngine { s with inputs := rest }) :=
  step_of_inputs hs

/-! ### The obligation -/

/-- Settles O48: the reset input's step is `resetEngine`, which takes every field but the records and the inputs from
`State.reset`. -/
theorem resetStep : Obligations.ResetStep := by
  refine ⟨fun s rest hs => ⟨_, step_reset hs, ?_⟩, rfl, rfl, rfl, fun _ => regRead_reset_eq_none, by simp, rfl, rfl, rfl, rfl⟩
  have hbuf (b : Buf) (a : Nat) : Memory.read (bufOf b (resetEngine { s with inputs := rest })) a = none := by simp
  exact ⟨rfl, rfl, rfl, rfl, rfl, rfl, rfl, rfl, rfl, rfl, rfl, rfl, rfl, rfl, rfl, rfl, rfl, hbuf, rfl, rfl, rfl, rfl⟩

end Sys2Proof.Machine
end

section
/-! PROOFS. What every step keeps: the buffers and the lengths (O52), the result registers (O53, O58), the history and
`STATE` (O49, O54, O57), and the invariants at reset (O55). -/

namespace Sys2Proof.Machine

/-! ### The two buffers and their lengths -/

/-- Both buffers and both length registers are within `BUF_CAP`, the buffers in canonical form (R34, R56). -/
def StorageOk (s : State) : Prop := BuffersOk s ∧ LengthsOk s

/-- `StorageOk` speaks of the buffers and the length registers alone. -/
theorem StorageOk.congr {s t : State} (hs : StorageOk s) (hf : t.frameBuf = s.frameBuf) (ho : t.opBuf = s.opBuf)
    (hfl : t.frameLen = s.frameLen) (hol : t.opLen = s.opLen) : StorageOk t := by
  rwa [StorageOk, BuffersOk, LengthsOk, hf, ho, hfl, hol]

theorem StorageOk.frame_length_le {s : State} {b : Frame} (hs : StorageOk s) (hb : HoldsFrame s b) :
    b.length ≤ Config.bufCap := by
  obtain ⟨-, hf, -⟩ := hs
  obtain ⟨n, hn, hl, -⟩ := hb
  exact hl ▸ hf n hn

/-- A frame that fits `BUF_CAP` may be placed (R102, R133). -/
theorem StorageOk.placeFrame {s : State} {f : Frame} (hs : StorageOk s) (hf : f.length ≤ Config.bufCap) :
    StorageOk (placeFrame f s) := by
  obtain ⟨⟨hw, hi, ho⟩, hl⟩ := hs
  exact ⟨⟨Memory.writeBytes_wf f 0 hw, Memory.writeBytes_within f 0 (by omega) hi, ho⟩, hl⟩

theorem StorageOk.setFrameLen {s : State} {n : Nat} (hs : StorageOk s) (hn : n ≤ Config.bufCap) :
    StorageOk (setFrameLen n s) := by
  obtain ⟨hb, -, ho⟩ := hs
  refine ⟨hb, ?_, ho⟩
  rintro m ⟨⟩
  rwa [Config.toNat_length hn]

/-- HOST's write of one byte below `BUF_CAP` (R27). -/
theorem StorageOk.setBuf_write {s : State} (b : Buf) {i : Nat} (v : Byte) (hs : StorageOk s) (hi : i < Config.bufCap) :
    StorageOk (setBuf b (Memory.write (bufOf b s) i v) s) := by
  obtain ⟨⟨hfw, hfi, how, hoi⟩, hl⟩ := hs
  cases b with
  | frame => exact ⟨⟨Memory.write_wf i v hfw, Memory.write_within v hi hfi, how, hoi⟩, hl⟩
  | op => exact ⟨⟨hfw, hfi, Memory.write_wf i v how, Memory.write_within v hi hoi⟩, hl⟩

/-- HOST's write of a register: the port has bounded a length by `BUF_CAP` (R25). -/
theorem StorageOk.regWrite {s : State} {n : RegName} {v : Nat} (hs : StorageOk s)
    (hl : isLengthReg n = true → v ≤ Config.bufCap) : StorageOk (regWrite n v s) := by
  by_cases hf : n = .frameLen
  · subst hf
    exact hs.setFrameLen (hl rfl)
  by_cases ho : n = .opLen
  · subst ho
    obtain ⟨hb, hfl, -⟩ := hs
    refine ⟨hb, hfl, ?_⟩
    rintro m ⟨⟩
    rw [Config.toNat_length (hl rfl)]
    exact hl rfl
  · exact hs.congr (by simp) (by simp) (regWrite_frameLen_other v s (Ne.symm hf)) (regWrite_opLen_other v s (Ne.symm ho))

/-- A command writes `FRAME_BUF` with a frame that fits, or not at all. -/
theorem ownRule_storageOk {i : Instr} {s t : State} (hs : StorageOk s) (h : ownRule i s = .ok t) : StorageOk t := by
  rcases ownRule_effect h with ⟨-, f, hf, rfl⟩ | ⟨-, rfl⟩ | ⟨-, b, -, rfl⟩ | ⟨c, -, rfl⟩ | ⟨-, b, hb, hl, rfl⟩ |
    ⟨-, et, -, rfl⟩ | ⟨-, rfl⟩ | ⟨-, rfl⟩
  · exact ((hs.placeFrame hf).setFrameLen hf).congr rfl rfl rfl rfl
  · exact hs.congr rfl rfl rfl rfl
  · exact hs.congr (by simp) (by simp) (by simp) (by simp)
  · exact hs.congr rfl rfl rfl rfl
  · have hf : (replyFn b).length ≤ Config.bufCap := replyFn_length (b := b) (by omega) ▸ hs.frame_length_le hb
    exact (hs.placeFrame hf).congr rfl rfl rfl rfl
  · exact hs.congr rfl rfl rfl rfl
  · exact hs.congr rfl rfl rfl rfl
  · exact hs.congr rfl rfl rfl rfl

theorem rspRx_storageOk {s : State} (f : Frame) (hs : StorageOk s) : StorageOk (rspRx f s) := by
  rcases rspRx_cases f s with h | h <;> rw [h] <;> exact hs.congr rfl rfl rfl rfl

theorem storageOk_reset : StorageOk State.reset := by
  obtain ⟨hf, ho⟩ := reset_buffers_wf
  exact ⟨⟨hf, nofun, ho, nofun⟩, nofun, nofun⟩

/-- Every step keeps the buffers and the lengths within `BUF_CAP` (R34, R56). -/
theorem step_storageOk {s t : State} (hs : StorageOk s) (h : step s = .next t) : StorageOk t := by
  have hin (ins : List Input) : StorageOk { s with inputs := ins } := hs.congr rfl rfl rfl rfl
  cases step_effect h with
  | nothing h => rw [h]; exact hin _
  | refusal m h => rw [h]; exact hs.congr rfl rfl rfl rfl
  | fault n h => rw [h]; exact hs.congr rfl rfl rfl rfl
  | read v h => rw [h]; exact hs.congr rfl rfl rfl rfl
  | register n v ha hw hl h => rw [h]; exact (hin _).regWrite hl
  | byte b i v hi h => rw [h]; exact (hin t.inputs).setBuf_write b v hi
  | command i u ins hc ha hu h => rw [h]; exact (ownRule_storageOk (hin ins) hu).congr rfl rfl rfl rfl
  | receive f hx he hf h => rw [h]; exact rspRx_storageOk f (hin _)
  | transmitted a r hx he hr h => rw [h]; exact hs.congr rfl rfl rfl rfl
  | reset hx h => rw [h]; exact storageOk_reset.congr rfl rfl rfl rfl

/-! ### The part of the state that only commands, MEDIUM events and reset touch -/

/-- A step leaves `STATE`, `TX_PEND`, `H` and the result registers as they are, or it is a command that completes, a
delivery or an answer that is taken, or a reset: no other port operation touches them (R25–R28). -/
theorem step_control_results_cases {s t : State} (h : step s = .next t) :
    (SameControl s t ∧ SameResults s t) ∨
    (∃ i u ins, IssuesCommand s i ∧ AllowedIn i s.engine ∧ ownRule i { s with inputs := ins } = .ok u ∧
      t = { u with inputs := t.inputs }) ∨
    (∃ f rest, s.inputs = .deliver f :: rest ∧ s.engine = .listen ∧ t = rspRx f { s with inputs := t.inputs }) ∨
    (∃ a r rest, s.inputs = .answer a :: rest ∧ s.engine = .txWait ∧ s.txPend = some r ∧
      t = rspTxDone a r { s with inputs := t.inputs }) ∨
    (NextIsReset s ∧ t = resetEngine { s with inputs := t.inputs }) := by
  cases step_effect h with
  | command i u ins hc ha hu h => exact .inr (.inl ⟨i, u, ins, hc, ha, hu, h⟩)
  | receive f hx he hf h => exact .inr (.inr (.inl (hx.elim fun rest hs => ⟨f, rest, hs, he, h⟩)))
  | transmitted a r hx he hr h => exact .inr (.inr (.inr (.inl (hx.elim fun rest hs => ⟨a, r, rest, hs, he, hr, h⟩))))
  | reset hx h => exact .inr (.inr (.inr (.inr ⟨hx, h⟩)))
  | nothing h => rw [h]; exact .inl ⟨by simp [SameControl], by simp [SameResults]⟩
  | refusal m h => rw [h]; exact .inl ⟨by simp [SameControl], by simp [SameResults]⟩
  | fault n h => rw [h]; exact .inl ⟨by simp [SameControl], by simp [SameResults]⟩
  | read v h => rw [h]; exact .inl ⟨by simp [SameControl], by simp [SameResults]⟩
  | register n v ha hw hl h => rw [h]; exact .inl ⟨by simp [SameControl], by simp [SameResults]⟩
  | byte b i v hi h => rw [h]; exact .inl ⟨by simp [SameControl], by simp [SameResults]⟩

/-! ### The result registers -/

/-- `ResultsOk` speaks of the result registers alone. -/
theorem ResultsOk.congr {s t : State} (hr : ResultsOk s) (h : SameResults s t) : ResultsOk t := by
  obtain ⟨h1, h2, h3, h4, h5, h6, h7, h8⟩ := h
  rwa [ResultsOk, h1, h2, h3, h4, h5, h6, h7, h8]

/-- The result registers of no frame: all of them unwritten, as reset and a rejected frame leave them (R104, R210). -/
theorem resultsOk_reset : ResultsOk State.reset := .inl ⟨rfl, rfl, rfl, rfl, rfl, rfl, rfl, rfl⟩

/-- DECODE writes the registers of the frame it parsed, in the form the frame has (R104). -/
theorem writeResults_resultsOk (b : Frame) (s : State) : ResultsOk (writeResults (decodeFn b) s) := by
  rcases frame_length_tpid_cases b with h | ⟨hl, ht⟩ | ⟨hl, ht⟩
  · rw [decodeFn_short h]
    exact .inl ⟨rfl, rfl, rfl, rfl, rfl, rfl, rfl, rfl⟩
  · rw [decodeFn_tagged hl ht]
    exact .inr ⟨rfl, rfl, rfl, rfl, .inl ⟨rfl, rfl, _, rfl, rfl⟩⟩
  · rw [decodeFn_untagged hl ht]
    exact .inr ⟨rfl, rfl, rfl, rfl, .inr ⟨rfl, rfl, rfl, rfl⟩⟩

/-- A command that completes keeps the result registers unless it is DECODE (R221). -/
theorem ownRule_results {i : Instr} {s t : State} (h : ownRule i s = .ok t) :
    SameResults s t ∨ (i = .decode ∧ ∃ b, t = writeResults (decodeFn b) s) := by
  rcases ownRule_effect h with ⟨-, f, -, rfl⟩ | ⟨-, rfl⟩ | ⟨hi, b, -, ht⟩ | ⟨c, -, rfl⟩ | ⟨-, b, -, -, rfl⟩ |
    ⟨-, et, -, rfl⟩ | ⟨-, rfl⟩ | ⟨-, rfl⟩
  · exact .inl ⟨rfl, rfl, rfl, rfl, rfl, rfl, rfl, rfl⟩
  · exact .inl ⟨rfl, rfl, rfl, rfl, rfl, rfl, rfl, rfl⟩
  · exact .inr ⟨hi, b, ht⟩
  all_goals exact .inl ⟨rfl, rfl, rfl, rfl, rfl, rfl, rfl, rfl⟩

theorem rspRx_sameResults (f : Frame) (s : State) : SameResults s (rspRx f s) := by
  rcases rspRx_cases f s with h | h <;> rw [h] <;> exact ⟨rfl, rfl, rfl, rfl, rfl, rfl, rfl, rfl⟩

/-- A step keeps the result registers, or it is a reset, or a DECODE in `IDLE` (R221). -/
theorem step_results_cases {s t : State} (h : step s = .next t) :
    SameResults s t ∨ (NextIsReset s ∧ SameResults State.reset t) ∨
    (s.engine = .idle ∧ IssuesCommand s .decode ∧ ∃ b u, SameResults (writeResults (decodeFn b) u) t) := by
  rcases step_control_results_cases h with ⟨-, hr⟩ | ⟨i, u, ins, hc, ha, hu, ht⟩ | ⟨f, rest, -, -, ht⟩ |
    ⟨a, r, rest, -, -, -, ht⟩ | ⟨hx, ht⟩
  · exact .inl hr
  · rw [ht]
    rcases ownRule_results hu with hr | ⟨rfl, b, rfl⟩
    · exact .inl hr
    · exact .inr (.inr ⟨ha.resolve_right (by simp), hc, b, _, rfl, rfl, rfl, rfl, rfl, rfl, rfl, rfl⟩)
  · rw [ht]
    exact .inl (rspRx_sameResults f { s with inputs := t.inputs })
  · rw [ht]
    exact .inl ⟨rfl, rfl, rfl, rfl, rfl, rfl, rfl, rfl⟩
  · rw [ht]
    exact .inr (.inl ⟨hx, rfl, rfl, rfl, rfl, rfl, rfl, rfl, rfl⟩)

/-! ### `STATE`, `TX_PEND` and the history -/

/-- What a step does to `STATE`, `TX_PEND` and `H`: nothing, or one of the moves of R22, R136, R137, R141, R142 and
R210. -/
inductive ControlEffect (s t : State) : Prop where
  | keeps (he : t.engine = s.engine) (hp : t.txPend = s.txPend) (hh : t.hist = s.hist)
  | start (hc : IssuesCommand s .start) (hs : s.engine = .idle) (he : t.engine = .listen) (hp : t.txPend = s.txPend)
      (hh : t.hist = s.hist)
  | stop (hc : IssuesCommand s .stop) (hs : s.engine ≠ .terminated) (he : t.engine = .terminated)
      (hp : t.txPend = none) (hh : t.hist = s.hist ++ [.stopped])
  | receive (f : Frame) (hs : s.engine = .listen) (he : t.engine = s.engine) (hp : t.txPend = s.txPend)
      (hh : t.hist = s.hist ++ [.rx f])
  | reply (f : Frame) (hx : ∃ rest, s.inputs = .deliver f :: rest) (hs : s.engine = .listen) (hf : 14 ≤ f.length)
      (he : t.engine = .txWait) (hp : t.txPend = some (replyFn f)) (hh : t.hist = s.hist ++ [.rx f, .tx (replyFn f)])
  | answer (a : TxAnswer) (r : Frame) (hx : ∃ rest, s.inputs = .answer a :: rest) (hs : s.engine = .txWait)
      (hr : s.txPend = some r) (he : t.engine = .listen) (hp : t.txPend = none)
      (hh : t.hist = s.hist ++ [answerEvent a r])
  | reset (hx : NextIsReset s) (he : t.engine = .idle) (hp : t.txPend = none) (hh : t.hist = s.hist ++ [.reset])

/-- A command that completes keeps `STATE`, `TX_PEND` and `H` unless it is START or STOP (R136, R137). -/
theorem ownRule_control_hist {i : Instr} {s t : State} (h : ownRule i s = .ok t) :
    (t.engine = s.engine ∧ t.txPend = s.txPend ∧ t.hist = s.hist) ∨ (i = .start ∧ t = startRule s) ∨
    (i = .stop ∧ t = stopRule s) := by
  rcases ownRule_effect h with ⟨-, f, -, rfl⟩ | ⟨-, rfl⟩ | ⟨-, b, -, rfl⟩ | ⟨c, -, rfl⟩ | ⟨-, b, -, -, rfl⟩ |
    ⟨-, et, -, rfl⟩ | h | h
  · exact .inl ⟨rfl, rfl, rfl⟩
  · exact .inl ⟨rfl, rfl, rfl⟩
  · exact .inl ⟨by simp, by simp, by simp⟩
  · exact .inl ⟨rfl, rfl, rfl⟩
  · exact .inl ⟨rfl, rfl, rfl⟩
  · exact .inl ⟨rfl, rfl, rfl⟩
  · exact .inr (.inl h)
  · exact .inr (.inr h)

/-- A frame that passes the filter has 14 bytes or more (R130). -/
theorem length_of_filterFn_pass {f : Frame} {F : Half} (h : filterFn f F = .pass) : 14 ≤ f.length := by
  by_contra hl
  cases (filterFn_short (Nat.not_le.mp hl) F).symm.trans h

theorem step_control {s t : State} (h : step s = .next t) : ControlEffect s t := by
  rcases step_control_results_cases h with ⟨⟨he, -, hp, hh⟩, -⟩ | ⟨i, u, ins, hc, ha, hu, ht⟩ | ⟨f, rest, hs, he, ht⟩ |
    ⟨a, r, rest, hs, he, hr, ht⟩ | ⟨hx, ht⟩
  · exact .keeps he hp hh
  · rw [ht]
    rcases ownRule_control_hist hu with ⟨he, hp, hh⟩ | ⟨rfl, rfl⟩ | ⟨rfl, rfl⟩
    · exact .keeps he hp hh
    · exact .start hc (ha.resolve_right (by simp)) rfl rfl rfl
    · exact .stop hc (by rintro hx; simp [AllowedIn, hx] at ha) rfl rfl rfl
  · rw [ht]
    by_cases hf : filterFn f s.filterEtype = .pass
    · rw [rspRx_pass (s := { s with inputs := t.inputs }) hf]
      exact .reply f ⟨rest, hs⟩ he (length_of_filterFn_pass hf) rfl rfl rfl
    · rw [rspRx_not_pass (s := { s with inputs := t.inputs }) hf]
      exact .receive f he rfl rfl rfl
  · rw [ht]
    exact .answer a r ⟨rest, hs⟩ he hr rfl rfl rfl
  · rw [ht]
    exact .reset hx rfl rfl rfl

/-- A history is read part by part. -/
theorem histRun_append (p : HistPos) (es fs : List HistEvent) :
    histRun p (es ++ fs) = (histRun p es).bind fun q => histRun q fs := by
  induction es generalizing p with
  | nil => rfl
  | cons e es ih =>
    simp only [List.cons_append, histRun]
    cases histNext p e with
    | none => rfl
    | some q => exact ih q

/-- A history in order stays so when it gains events that may come where it stands and leave `TX_PEND` pending. -/
theorem HistoryOk.append {s t : State} {es : List HistEvent} (hs : HistoryOk s) (hh : t.hist = s.hist ++ es)
    (hes : ∀ p : HistPos, p.pending = s.txPend → ∃ q, histRun p es = some q ∧ q.pending = t.txPend) : HistoryOk t := by
  obtain ⟨hhead, p, hrun, hp⟩ := hs
  obtain ⟨q, hq, hqp⟩ := hes p hp
  refine ⟨?_, q, ?_, hqp⟩
  · rw [hh, List.head?_append, hhead, Option.some_or]
  · rw [hh, histRun_append, hrun, Option.bind_some, hq]

theorem HistoryOk.congr {s t : State} (hs : HistoryOk s) (hp : t.txPend = s.txPend) (hh : t.hist = s.hist) :
    HistoryOk t :=
  hs.append (es := []) (by rw [hh, List.append_nil]) fun p h => ⟨p, rfl, h.trans hp.symm⟩

/-- A frame may be received while nothing is pending, and its reply sent next; then the reply is pending (R62, R141). -/
theorem histRun_reply {p : HistPos} {f : Frame} (hp : p.pending = none) (hf : 14 ≤ f.length) :
    histRun p [.rx f, .tx (replyFn f)] = some ⟨some (replyFn f), none⟩ := by
  simp [histRun, histNext, hp, hf]

theorem histRun_rx {p : HistPos} (f : Frame) (hp : p.pending = none) : histRun p [.rx f] = some ⟨none, some f⟩ := by
  simp [histRun, histNext, hp]

/-- Either answer may come for the pending reply, and leaves nothing pending (R62, R142). -/
theorem histRun_answer {p : HistPos} {r : Frame} (a : TxAnswer) (hp : p.pending = some r) :
    histRun p [answerEvent a r] = some ⟨none, none⟩ := by
  cases a <;> simp [histRun, histNext, answerEvent, hp]

/-- Every step keeps the history in the responder's order (R62). -/
theorem step_historyOk {s t : State} (hpend : PendingOk s) (hs : HistoryOk s) (h : step s = .next t) : HistoryOk t := by
  have idle (he : s.engine = .listen) : s.txPend = none := hpend.txPend_eq_none (by simp [he])
  cases step_control h with
  | keeps he hp hh => exact hs.congr hp hh
  | start hc he he' hp hh => exact hs.congr hp hh
  | stop hc he he' hp hh => exact hs.append hh fun p _ => ⟨⟨none, none⟩, rfl, hp.symm⟩
  | receive f he he' hp hh =>
    exact hs.append hh fun p h => ⟨_, histRun_rx f (h.trans (idle he)), (hp.trans (idle he)).symm⟩
  | reply f hx he hf he' hp hh => exact hs.append hh fun p h => ⟨_, histRun_reply (h.trans (idle he)) hf, hp.symm⟩
  | answer a r hx he hr he' hp hh => exact hs.append hh fun p h => ⟨_, histRun_answer a (h.trans hr), hp.symm⟩
  | reset hx he hp hh => exact hs.append hh fun p _ => ⟨⟨none, none⟩, rfl, hp.symm⟩

/-- Every step appends to the history, possibly nothing (R29). -/
theorem step_hist {s t : State} (h : step s = .next t) : ∃ es, t.hist = s.hist ++ es := by
  cases step_control h with
  | keeps he hp hh => exact ⟨[], by rw [hh, List.append_nil]⟩
  | start hc he he' hp hh => exact ⟨[], by rw [hh, List.append_nil]⟩
  | stop hc he he' hp hh => exact ⟨_, hh⟩
  | receive f he he' hp hh => exact ⟨_, hh⟩
  | reply f hx he hf he' hp hh => exact ⟨_, hh⟩
  | answer a r hx he hr he' hp hh => exact ⟨_, hh⟩
  | reset hx he hp hh => exact ⟨_, hh⟩

/-! ### The obligations -/

/-- Settles O52: whatever writes a buffer or a length keeps it within `BUF_CAP` (`step_storageOk`). -/
theorem buffersAndLengthsKept : Obligations.BuffersAndLengthsKept :=
  fun _ _ hb hl h => step_storageOk ⟨hb, hl⟩ h

/-- Settles O53: the result registers stay, or are those of reset or of the frame that DECODE parsed. -/
theorem resultRegistersConsistent : Obligations.ResultRegistersConsistent := by
  intro s t hr h
  rcases step_results_cases h with hk | ⟨-, hk⟩ | ⟨-, -, b, u, hk⟩
  · exact hr.congr hk
  · exact resultsOk_reset.congr hk
  · exact (writeResults_resultsOk b u).congr hk

/-- Settles O54: each move of the engine appends events that may come where the history stands. -/
theorem historyKeepsResponderOrder : Obligations.HistoryKeepsResponderOrder := fun _ _ => step_historyOk

/-- Settles O49: by what a step appends to the history (`step_hist`) and what it records (`step_marks`). -/
theorem recordsOnlyGrow : Obligations.RecordsOnlyGrow := by
  intro s t h
  refine ⟨step_hist h, ?_⟩
  rcases step_marks h with ⟨hf, hr, hm⟩ | ⟨m, h⟩ | ⟨n, h⟩
  · exact ⟨⟨[], by rw [hf, List.append_nil]⟩, ⟨[], by rw [hm, List.append_nil]⟩, fun h => hr.trans h⟩
  · rw [h]
    exact ⟨⟨[], by simp⟩, ⟨_, rfl⟩, fun _ => rfl⟩
  · rw [h]
    exact ⟨⟨_, rfl⟩, ⟨[], by simp⟩, fun h => h⟩

/-- Settles O57: the moves of `ControlEffect` that change `STATE`. -/
theorem engineStateTransitions : Obligations.EngineStateTransitions := by
  intro s t h hne
  cases step_control h with
  | keeps he hp hh => exact absurd he hne
  | start hc hs he hp hh => exact .inr (.inl ⟨hs, he, hc⟩)
  | stop hc hs he hp hh => exact .inr (.inr (.inl ⟨hs, he, hc⟩))
  | receive f hs he hp hh => exact absurd he hne
  | reply f hx hs hf he hp hh =>
    obtain ⟨rest, hx⟩ := hx
    exact .inr (.inr (.inr (.inl ⟨hs, he, f, rest, hx, hp⟩)))
  | answer a r hx hs hr he hp hh => exact .inr (.inr (.inr (.inr ⟨hs, he, a, hx⟩)))
  | reset hx he hp hh => exact .inl ⟨hx, he⟩

/-- Settles O58: the cases of `step_results_cases` in which the result registers do not stay. -/
theorem resultsChangeOnlyAtDecode : Obligations.ResultsChangeOnlyAtDecode := by
  intro s t h hne
  rcases step_results_cases h with hk | ⟨hx, -⟩ | ⟨he, hc, -⟩
  · exact absurd hk hne
  · exact .inl hx
  · exact .inr ⟨he, hc⟩

/-- Settles O55: nothing is stored, pending or recorded after reset, and a step sets `REFUSED` when it records a refusal. -/
theorem invariantsAtReset : Obligations.InvariantsAtReset := by
  have hist : HistoryOk State.reset := ⟨rfl, ⟨none, none⟩, rfl, rfl⟩
  have inv : Inv State.reset :=
    ⟨storageOk_reset.1, storageOk_reset.2, pendingOk_of_none rfl (by simp [State.reset]), resultsOk_reset,
      by simp [RefusedOk, State.reset], hist⟩
  refine ⟨inv, ⟨rfl, rfl⟩, fun s t hr h => ?_⟩
  rcases step_marks h with ⟨-, hf, hm⟩ | ⟨m, h⟩ | ⟨n, h⟩
  · rwa [RefusedOk, hf, hm]
  · rw [h]
    simp [RefusedOk, recordRefusal]
  · rw [h]
    exact hr

end Sys2Proof.Machine
end

section
/-! PROOFS. The commands: their words and the step that runs one (O1, O4, O5), the order of the outcomes (O7), the codes
of `STATUS` (O59), and that nothing above the lengths is read (O60). -/

namespace Sys2Proof.Machine

/-! ### Table rows, and the word placed for the next step -/

/-- A command is one 32-bit word: a number's low bits are its word when they fit and decode to it (R81). -/
theorem decodeTableWord_eq_some_iff (nbits w : Nat) (i : Instr) :
    decodeTableWord nbits w = some i ↔
      w % 2 ^ nbits < 2 ^ 32 ∧ decodeWord (BitVec.ofNat 32 (w % 2 ^ nbits)) = .ok i := by
  unfold decodeTableWord
  by_cases h : w % 2 ^ nbits < 2 ^ 32
  · rw [if_pos h, and_iff_right h]
    cases decodeWord (BitVec.ofNat 32 (w % 2 ^ nbits)) <;> simp
  · rw [if_neg h]
    exact ⟨nofun, fun ⟨hlt, _⟩ => absurd hlt h⟩

/-- A number below `2^32` is the word it stands for. -/
theorem ofNat32_eq_iff {n : Nat} (h : n < 2 ^ 32) (w : Word) : BitVec.ofNat 32 n = w ↔ n = w.toNat := by
  rw [← BitVec.toNat_inj, BitVec.toNat_ofNat, Nat.mod_eq_of_lt h]

/-- The issue of a command's word is the command's own meaning (R80). -/
theorem issueCommand_ok {w : Word} {i : Instr} (s : State) (h : decodeWord w = .ok i) : issueCommand w s = exec i s := by
  rw [issueCommand, h]

/-- A word placed by `withFetchWord` is issued by the next step (log entry 19). -/
theorem step_withFetchWord {nbits w : Nat} (s : State) (h : w % 2 ^ nbits < 2 ^ 32) :
    step (s.withFetchWord nbits w) = issueCommand (BitVec.ofNat 32 (w % 2 ^ nbits)) s := by
  have hw : w % 2 ^ nbits = (BitVec.ofNat 32 (w % 2 ^ nbits)).toNat := (ofNat32_eq_iff h _).mp rfl
  have hs : (s.withFetchWord nbits w).inputs = .host (.hwr 0x00 (BitVec.ofNat 32 (w % 2 ^ nbits)).toNat) :: s.inputs := by
    rw [← hw]
    rfl
  exact step_writesCmd hs

/-! ### What a command that completes leaves -/

/-- The codes each command leaves in `STATUS` (R23). -/
def completionCodes : Instr → List StatusCode
  | .encode => [.ok]
  | .encodeV => [.ok, .invalidVlanId]
  | .decode => [.ok, .reject]
  | .filter => [.reject, .pass, .skip]
  | .swap => [.ok, .reject]
  | .qualifyAe => [.matched, .nonqual]
  | .qualifyAep => [.matched, .mismatched, .nonqual]
  | .qualifyA => [.matched, .nonqual]
  | .setfilter => [.ok]
  | .start => [.ok]
  | .stop => [.ok]

theorem noneYet_notMem_completionCodes (i : Instr) : .noneYet ∉ completionCodes i := by cases i <;> decide

theorem writeResults_status (r : DecodeResult) (s : State) : (writeResults r s).status ∈ completionCodes .decode := by
  cases r <;> simp [writeResults, completionCodes]

theorem statusOfFilter_mem (r : FilterResult) : statusOfFilter r ∈ completionCodes .filter := by cases r <;> decide

theorem statusOfVerdict_mem (v : Verdict) : statusOfVerdict v ∈ completionCodes .qualifyAep := by cases v <;> decide

/-- Only the payload makes a verdict `MISMATCHED`, and modes AE and A read none (R170). -/
theorem statusOfVerdict_ae_mem (b : Frame) (es ed : Addr) (ee : Half) (ep : Frame) :
    statusOfVerdict (qualifyFn b es ed ee ep .ae) ∈ completionCodes .qualifyAe := by
  rw [qualifyFn_ae]
  split <;> decide

theorem statusOfVerdict_a_mem (b : Frame) (es ed : Addr) (ee : Half) (ep : Frame) :
    statusOfVerdict (qualifyFn b es ed ee ep .a) ∈ completionCodes .qualifyA := by
  rw [qualifyFn_a]
  split <;> decide

/-- A command that completes leaves one of its codes in `STATUS` (R23, R226). -/
theorem ownRule_status {i : Instr} {s t : State} (h : ownRule i s = .ok t) : t.status ∈ completionCodes i := by
  cases i
  case encode =>
    obtain ⟨dst, src, et, p, -, -, rfl⟩ := encodeRule_ok h
    simp [completionCodes]
  case encodeV =>
    rcases encodeVRule_ok h with rfl | ⟨dst, src, v, et, p, -, -, rfl⟩
    · simp [completionCodes]
    · simp [completionCodes]
  case decode =>
    obtain ⟨b, -, ht⟩ := except_bind_eq_ok.mp h
    cases ht
    exact writeResults_status _ _
  case filter =>
    obtain ⟨b, -, ht⟩ := except_bind_eq_ok.mp h
    cases ht
    exact statusOfFilter_mem _
  case swap =>
    obtain ⟨b, -, ht⟩ := except_bind_eq_ok.mp h
    split at ht <;> cases ht <;> simp [completionCodes]
  case qualifyAe =>
    rcases qualifyAeRule_cases s with ⟨n, e, -⟩ | ⟨b, es, ed, ee, -, -, -, -, e⟩
    · cases e.symm.trans h
    · cases e.symm.trans h
      exact statusOfVerdict_ae_mem b es ed ee []
  case qualifyAep =>
    rcases qualifyAepRule_cases s with ⟨n, e, -⟩ | ⟨b, es, ed, ee, ep, -, -, -, -, -, e⟩
    · cases e.symm.trans h
    · cases e.symm.trans h
      exact statusOfVerdict_mem _
  case qualifyA =>
    rcases qualifyARule_cases s with ⟨n, e, -⟩ | ⟨b, es, ed, -, -, -, e⟩
    · cases e.symm.trans h
    · cases e.symm.trans h
      exact statusOfVerdict_a_mem b es ed 0#16 []
  case setfilter =>
    obtain ⟨et, -, ht⟩ := except_bind_eq_ok.mp h
    cases ht
    simp [completionCodes]
  case start => cases h; simp [completionCodes, startRule]
  case stop => cases h; simp [completionCodes, stopRule]

/-- A command that completes has not met a frame over `BUF_CAP` (R102, R103). -/
theorem ownRule_encodedLength {i : Instr} {s t : State} {n : Nat} (h : ownRule i s = .ok t)
    (hn : encodedLength i s = some n) : n ≤ Config.bufCap := by
  cases i
  case encode =>
    obtain ⟨dst, src, et, p, ⟨m, hm, hl, -⟩, hc, -⟩ := encodeRule_ok h
    simp only [encodedLength, hm, Option.map_some, Option.some.injEq] at hn
    omega
  case encodeV =>
    rcases encodeVRule_cases Config.bufCap s with ⟨m, e, -⟩ | ⟨dst, src, et, v, p, -, -, -, -, ⟨m, hm, hl, -⟩, e⟩
    · cases e.symm.trans h
    · simp only [encodedLength, hm, Option.map_some, Option.some.injEq] at hn
      by_contra hc
      rw [if_pos (by omega)] at e
      cases e.symm.trans h
  all_goals cases hn

/-! ### Two states with the same bytes below the lengths -/

theorem Memory.readBytes_congr {m m' : Memory} (off n : Nat)
    (h : ∀ a, off ≤ a → a < off + n → Memory.read m' a = Memory.read m a) :
    Memory.readBytes m' off n = Memory.readBytes m off n := by
  induction n generalizing off with
  | zero => rfl
  | succ n ih =>
    rw [Memory.readBytes, Memory.readBytes, h off (by omega) (by omega),
      ih (off + 1) fun a h1 h2 => h a (by omega) (by omega)]

/-- Writing the same bytes keeps two buffers alike where they were alike. -/
theorem Memory.read_writeBytes_congr {m m' : Memory} (f : Frame) {a : Nat} (h : Memory.read m' a = Memory.read m a) :
    Memory.read (Memory.writeBytes m' 0 f) a = Memory.read (Memory.writeBytes m 0 f) a := by
  rw [Memory.read_writeBytes, Memory.read_writeBytes, h]

/-- State `u` is `t` but for the buffers: `FRAME_BUF` reads the same below `FRAME_LEN`, and `OP_BUF` reads as `ob`. -/
def SameBelowLengths (ob : Memory) (t u : State) : Prop :=
  u = { t with frameBuf := u.frameBuf, opBuf := u.opBuf } ∧
  (∀ n a, t.frameLen = some n → a < n.toNat → Memory.read u.frameBuf a = Memory.read t.frameBuf a) ∧
  ∀ a, Memory.read u.opBuf a = Memory.read ob a

/-- Two answers of a command's own rule that differ above the lengths alone. -/
inductive SameAnswer (ob : Memory) : Except Abort State → Except Abort State → Prop where
  | aborts (e : Abort) : SameAnswer ob (.error e) (.error e)
  | completes {t u : State} (h : SameBelowLengths ob t u) : SameAnswer ob (.ok t) (.ok u)

/-- The same read first, and then alike whatever it gives. -/
theorem SameAnswer.bind {ob : Memory} {α : Type} (x : Except Abort α) {f g : α → Except Abort State}
    (h : ∀ a, SameAnswer ob (f a) (g a)) : SameAnswer ob (x >>= f) (x >>= g) := by
  cases x with
  | error e => exact .aborts e
  | ok a => exact h a

theorem SameAnswer.settle {ob : Memory} {s s' : State} {x y : Except Abort State} (hs : SameBelowLengths ob s s')
    (h : SameAnswer ob x y) : SameBelowLengths ob (settle s x) (settle s' y) := by
  obtain ⟨he, hf, ho⟩ := hs
  cases h with
  | completes h => exact h
  | aborts e =>
    cases e with
    | unwritten n => exact ⟨by rw [he]; rfl, hf, ho⟩
    | refuse m => exact ⟨by rw [he]; rfl, hf, ho⟩

section
variable {s : State} {fb ob : Memory}
  (hf : ∀ n a, s.frameLen = some n → a < n.toNat → Memory.read fb a = Memory.read s.frameBuf a)
  (ho : ∀ n a, s.opLen = some n → a < n.toNat → Memory.read ob a = Memory.read s.opBuf a)

include hf in
theorem frameOperand_withBuffers : frameOperand { s with frameBuf := fb, opBuf := ob } = frameOperand s := by
  cases hn : s.frameLen with
  | none => simp [frameOperand, hn]
  | some n =>
    simp only [frameOperand, hn, need_some, except_bind_ok, needBytes, bufOf]
    rw [Memory.readBytes_congr 0 n.toNat fun a _ ha => hf n a hn (by omega)]

include ho in
theorem payloadOperand_withBuffers : payloadOperand { s with frameBuf := fb, opBuf := ob } = payloadOperand s := by
  cases hn : s.opLen with
  | none => simp [payloadOperand, hn]
  | some n =>
    simp only [payloadOperand, hn, need_some, except_bind_ok, needBytes, bufOf]
    rw [Memory.readBytes_congr 0 n.toNat fun a _ ha => ho n a hn (by omega)]

/-- A finished encoding holds the same frame whatever the buffer held. -/
theorem sameBelowLengths_finishEncode (f : Frame) :
    SameBelowLengths ob (finishEncode f s) (finishEncode f { s with frameBuf := fb, opBuf := ob }) := by
  refine ⟨rfl, ?_, fun _ => rfl⟩
  rintro n a ⟨⟩ ha
  have hlt : a < f.length := Nat.lt_of_lt_of_le ha (BitVec.toNat_ofNat _ _ ▸ Nat.mod_le _ _)
  simp only [finishEncode_frameBuf, Memory.read_writeBytes_of_lt _ _ hlt]

include hf in
theorem sameBelowLengths_placeFrame (f : Frame) (c : StatusCode) :
    SameBelowLengths ob (setStatus c (placeFrame f s))
      (setStatus c (placeFrame f { s with frameBuf := fb, opBuf := ob })) :=
  ⟨rfl, fun n a hn ha => Memory.read_writeBytes_congr f (hf n a hn ha), fun _ => rfl⟩

include hf in
theorem sameBelowLengths_writeResults (r : DecodeResult) :
    SameBelowLengths ob (writeResults r s) (writeResults r { s with frameBuf := fb, opBuf := ob }) := by
  cases r <;> exact ⟨rfl, hf, fun _ => rfl⟩

include hf ho in
/-- A command's own rule reads no byte at or above the lengths (R56). -/
theorem ownRule_sameAnswer (i : Instr) :
    SameAnswer ob (ownRule i s) (ownRule i { s with frameBuf := fb, opBuf := ob }) := by
  have frame := frameOperand_withBuffers (ob := ob) hf
  have payload := payloadOperand_withBuffers (fb := fb) ho
  have status (c : StatusCode) :
      SameAnswer ob (.ok (setStatus c s)) (.ok (setStatus c { s with frameBuf := fb, opBuf := ob })) :=
    .completes ⟨rfl, hf, fun _ => rfl⟩
  cases i
  case encode =>
    simp only [ownRule, encodeRule, payload]
    refine .bind _ fun dst => .bind _ fun src => .bind _ fun et => .bind _ fun p => ?_
    split
    · exact .aborts _
    · exact .completes (sameBelowLengths_finishEncode _)
  case encodeV =>
    simp only [ownRule, encodeVRule, payload]
    refine .bind _ fun dst => .bind _ fun src => .bind _ fun et => .bind _ fun v => .bind _ fun p => ?_
    split
    · exact .aborts _
    · cases encodeFn dst src et p (some v) with
      | frame f => exact .completes (sameBelowLengths_finishEncode f)
      | invalidVlanId => exact status _
  case decode =>
    simp only [ownRule, decodeRule, frame]
    exact .bind _ fun b => .completes (sameBelowLengths_writeResults hf _)
  case filter =>
    simp only [ownRule, filterRule, frame]
    exact .bind _ fun b => status _
  case swap =>
    simp only [ownRule, swapRule, frame]
    refine .bind _ fun b => ?_
    split
    · exact status _
    · exact .completes (sameBelowLengths_placeFrame hf _ _)
  case qualifyAe =>
    simp only [ownRule, qualifyAeRule, frame]
    exact .bind _ fun b => .bind _ fun es => .bind _ fun ed => .bind _ fun ee => status _
  case qualifyAep =>
    simp only [ownRule, qualifyAepRule, frame, payload]
    exact .bind _ fun b => .bind _ fun es => .bind _ fun ed => .bind _ fun ee => .bind _ fun ep => status _
  case qualifyA =>
    simp only [ownRule, qualifyARule, frame]
    exact .bind _ fun b => .bind _ fun es => .bind _ fun ed => status _
  case setfilter => exact .bind _ fun et => .completes ⟨rfl, hf, fun _ => rfl⟩
  case start => exact .completes ⟨rfl, hf, fun _ => rfl⟩
  case stop => exact .completes ⟨rfl, hf, fun _ => rfl⟩

end

/-! ### The obligations -/

/-- Settles O1: the five words are encoded commands, and the decoder names each reserved field. -/
theorem someTableWordsDecode : Obligations.SomeTableWordsDecode :=
  ⟨decodeWord_encodeWord .encode, decodeWord_encodeWord .encodeV, decodeWord_encodeWord .swap,
    decodeWord_encodeWord .qualifyA, decodeWord_encodeWord .stop, rfl, rfl, rfl⟩

/-- Settles O4: a number's low bits decode to a command when they are its word, and every word is below `2^32`. -/
theorem tableWordReadsItsCommand : Obligations.TableWordReadsItsCommand := by
  intro nbits w i
  rw [decodeTableWord_eq_some_iff, decodeWord_eq_ok_iff, encodeWord_eq_tableWord]
  constructor
  · rintro ⟨hlt, h⟩
    exact (ofNat32_eq_iff hlt _).mp h
  · intro h
    have hlt : w % 2 ^ nbits < 2 ^ 32 := h ▸ (tableWord i).isLt
    exact ⟨hlt, (ofNat32_eq_iff hlt _).mpr h⟩

/-- Settles O5: the accepted write of `CMD` issues the word, and a word that decodes is its command's meaning. -/
theorem stepRunsDecodedCommand : Obligations.StepRunsDecodedCommand := by
  refine ⟨fun s rest w i hs hd => (step_writesCmd hs).trans (issueCommand_ok _ hd), fun s nbits w i h => ?_, fun i => ?_⟩
  · obtain ⟨hlt, hd⟩ := (decodeTableWord_eq_some_iff nbits w i).mp h
    exact (step_withFetchWord s hlt).trans (issueCommand_ok s hd)
  · rw [← encodeWord_eq_tableWord]
    rfl

/-- Settles O7: the gate comes first, and behind it the three answers of a command's own rule (`ownRule_cases`). -/
theorem commandPriority : Obligations.CommandPriority := by
  intro w s
  refine ⟨fun h => issueCommand_reserved s ((decodeWord_error_iff w).mp h), fun i hd => ?_⟩
  have gate (ha : AllowedIn i s.engine) : exec i s = .next (settle s (ownRule i s)) := by
    rw [exec_eq, command_allowed _ ((allowed_iff _ _).mpr ha)]
  rw [issueCommand_ok s hd]
  refine ⟨fun ha => ?_, fun ha ⟨name, hm⟩ => ?_, fun ha hm => ?_⟩
  · rw [exec_eq, command_refused _ (Bool.eq_false_iff.mpr fun h => ha ((allowed_iff _ _).mp h))]
  · obtain ⟨n, e, hn⟩ := (ownRule_unwritten_or_nothing_missing i s).resolve_right fun h => h name hm
    exact ⟨n, hn, by rw [gate ha, e, settle_unwritten]⟩
  · rw [gate ha]
    rcases ownRule_cases i s with ⟨n, -, hn⟩ | ⟨n, e, hn, hc⟩ | ⟨t, e⟩
    · exact absurd ⟨n, hn⟩ hm
    · rw [e]
      refine ⟨fun k hk _ => ?_, fun hle => absurd hc (Nat.not_lt.mpr (hle n hn))⟩
      cases hn.symm.trans hk
      rfl
    · rw [e]
      refine ⟨fun k hk hc => absurd hc (Nat.not_lt.mpr (ownRule_encodedLength e hk)), fun _ => ⟨t, rfl, ?_,
        ownRule_sameMarks e⟩⟩
      exact fun h => noneYet_notMem_completionCodes i (h ▸ ownRule_status e)

/-- Settles O59: `STATUS` changes by a command that completes, which marks nothing and leaves one of its codes. -/
theorem statusWrittenOnlyByCommands : Obligations.StatusWrittenOnlyByCommands := by
  refine ⟨fun s t h hne => ?_, fun i s t h hm => ?_⟩
  · rcases step_status_filterEtype_cases h with ⟨hs, -⟩ | hx | ⟨i, u, ins, hc, ha, hu, ht⟩
    · exact absurd hs hne
    · exact .inl hx
    · obtain ⟨hf, -, hr, -⟩ := ownRule_sameMarks hu
      rw [ht]
      exact .inr ⟨i, hc, ha, hf, hr⟩
  · exact ownRule_status (ownRule_of_sameMarks h hm)

/-- Settles O60: the gate looks at `STATE` alone, and behind it the own rule reads below the lengths
(`ownRule_sameAnswer`). -/
theorem bytesAboveTheLengthNotRead : Obligations.BytesAboveTheLengthNotRead := by
  intro i s fb ob hf ho
  have keep : SameBelowLengths ob s { s with frameBuf := fb, opBuf := ob } := ⟨rfl, hf, fun _ => rfl⟩
  cases ha : allowed i s.engine with
  | true =>
    refine ⟨_, _, (exec_eq i s).trans (command_allowed _ ha), (exec_eq i _).trans (command_allowed _ ha), ?_⟩
    exact (ownRule_sameAnswer hf ho i).settle keep
  | false =>
    refine ⟨_, _, (exec_eq i s).trans (command_refused _ ha), (exec_eq i _).trans (command_refused _ ha), ?_⟩
    exact (SameAnswer.aborts (.refuse (.commandInState i s.engine))).settle keep

end Sys2Proof.Machine
end

section
/-! PROOFS. The byte order (O12), and the responder where the statements are about a frame and its reply (O30–O32) and about
deliveries and answers that are not taken (O33, O34). -/

namespace Sys2Proof.Machine

/-! ### The EtherType that the filter reads, and SWAP done twice -/

/-- The EtherType stands at offset 16 of a tagged frame and at offset 12 of any other (R74, R101). -/
theorem parseFrame_etype (b : Frame) :
    (parseFrame b).etype = if be16 b 12 = 0x8100#16 ∧ 18 ≤ b.length then be16 b 16 else be16 b 12 := by
  rw [parseFrame, apply_ite Parsed.etype]

/-- Placing a frame over the reply to it leaves every byte of `FRAME_BUF` as it was before both (R223). -/
theorem read_placeFrame_twice {s : State} {b f : Frame} (hb : HoldsFrame s b) (hl : f.length = b.length) (a : Nat) :
    Memory.read (placeFrame b (placeFrame f s)).frameBuf a = Memory.read s.frameBuf a := by
  rcases Nat.lt_or_ge a b.length with ha | ha
  · rw [placeFrame_frameBuf, Memory.read_writeBytes_of_lt _ _ ha, hb.read ha]
  · rw [placeFrame_frameBuf, Memory.read_writeBytes_of_length_le _ _ ha, placeFrame_frameBuf,
      Memory.read_writeBytes_of_length_le _ _ (hl ▸ ha)]

/-! ### The obligations -/

/-- Settles O12: byte `i` is the highest part of the concatenation, and each next byte the part below it. -/
theorem bigEndianFields : Obligations.BigEndianFields := by
  have high {n : Nat} (x : Byte) (y : BitVec n) : (x ++ y).extractLsb' n 8 = x := BitVec.extractLsb'_append_eq_left
  have last (x y : Byte) : (x ++ y).extractLsb' 0 8 = y := BitVec.extractLsb'_append_eq_right
  have low {n k : Nat} (x : Byte) (y : BitVec n) (h : k + 8 ≤ n := by decide) :
      (x ++ y).extractLsb' k 8 = y.extractLsb' k 8 := BitVec.extractLsb'_append_eq_of_add_le h
  refine fun b i => ⟨⟨high _ _, last _ _⟩, high _ _, ?_, ?_, ?_, ?_, ?_⟩
  · exact (low _ _).trans (high _ _)
  · exact (low _ _).trans <| (low _ _).trans (high _ _)
  · exact (low _ _).trans <| (low _ _).trans <| (low _ _).trans (high _ _)
  · exact (low _ _).trans <| (low _ _).trans <| (low _ _).trans <| (low _ _).trans (high _ _)
  · exact (low _ _).trans <| (low _ _).trans <| (low _ _).trans <| (low _ _).trans (last _ _)

/-- Settles O30: SWAP places the reply, and then the reply to it, which is the frame. -/
theorem swapTwiceRestoresTheFrame : Obligations.SwapTwiceRestoresTheFrame := by
  intro s b he hb h
  have h12 : 12 ≤ b.length := by omega
  have hl := replyFn_length h12
  have ht : HoldsFrame (setStatus .ok (placeFrame (replyFn b) s)) (replyFn b) := hb.placeFrame hl
  refine ⟨_, _, exec_swap_reply he hb h, exec_swap_reply he ht (hl ▸ h), ht, ?_⟩
  rw [replyFn_replyFn h12]
  exact ⟨ht.placeFrame hl.symm, read_placeFrame_twice hb hl⟩

/-- Settles O31: the reply passes the filter as the frame does, and the reply to it is the frame. -/
theorem loopedBackReplyIsEchoed : Obligations.LoopedBackReplyIsEchoed := by
  intro s f rest hs he hl ht
  have hpass : filterFn f s.filterEtype = .pass := (filterFn_eq_pass_iff f _).mpr ht
  have h14 := length_of_filterFn_pass hpass
  have h12 : 12 ≤ f.length := by omega
  rw [step_deliver hs he (by rwa [replyFn_length h12]), rspRx_pass (by rwa [filterFn_replyFn h14]), replyFn_replyFn h12]

/-- Settles O32: the filter depends on the frame through its length and its EtherType, which `parseFrame_etype` reads. -/
theorem filterReadsTheEtypeAlone : Obligations.FilterReadsTheEtypeAlone := by
  intro f g F hl h12 h16
  rcases Nat.lt_or_ge f.length 14 with h | h
  · rw [filterFn_short h, filterFn_short (hl ▸ h)]
  · have het : (parseFrame g).etype = (parseFrame f).etype := by
      rw [parseFrame_etype, parseFrame_etype, hl, h12]
      exact if_ctx_congr Iff.rfl (fun ⟨ht, h18⟩ => h16 h18 ht) fun _ => rfl
    rw [filterFn_long h, filterFn_long (hl ▸ h), het]

/-- Settles O33: outside its engine state a MEDIUM event has no step of the ENGINE, and is taken off the order alone. -/
theorem eventsThatAreNotEnabled : Obligations.EventsThatAreNotEnabled := by
  refine fun s rest => ⟨fun f hs he => ?_, fun a hs he => ?_, fun hs => ?_⟩
  · exact (step_of_inputs hs).trans (takeDelivery_not_listen f he)
  · exact (step_of_inputs hs).trans (congrArg Host.Outcome.next (takeAnswer_nothing_pending a fun h => he h.1))
  · rw [step, takeNext, hs]

/-- Settles O34: the delivery has no move, and its step is the named fault. -/
theorem oversizeDeliveryStops : Obligations.OversizeDeliveryStops :=
  fun _ _ _ hs he hf => (step_of_inputs hs).trans (takeDelivery_tooLong he hf)

end Sys2Proof.Machine
end

section
/-! PROOFS. HOST's reads of what it wrote and of the two codes (O45, O46), and the pseudo-instructions (O47). -/

namespace Sys2Proof.Machine

/-! ### The codes of `STATE` and `STATUS` -/

/-- The encoding of `STATE` (R22). -/
theorem engineBits_mem (e : EngineState) :
    (e, (engineBits e).toNat) ∈ [(EngineState.idle, 0), (.listen, 1), (.txWait, 2), (.terminated, 3)] := by
  cases e <;> decide

/-- The codes of `STATUS` (R23). -/
theorem statusBits_mem (c : StatusCode) :
    (c, (statusBits c).toNat) ∈ [(StatusCode.noneYet, 0x0), (.ok, 0x1), (.reject, 0x2), (.invalidVlanId, 0x3),
      (.pass, 0x4), (.skip, 0x5), (.matched, 0x6), (.mismatched, 0x7), (.nonqual, 0x8)] := by
  cases c <;> decide

/-! ### One statement of an expansion -/

/-- A port operation places no event (R25–R28). -/
theorem hostOp_inputs {op : HostOp} {s t : State} (h : hostOp op s = .next t) : t.inputs = s.inputs := by
  cases hostOp_effect h with
  | refusal m h => rw [h, recordRefusal]
  | fault n h => rw [h, recordFault]
  | read v h => rw [h, giveHost]
  | register n v ha hw hl h => rw [h, regWrite_inputs]
  | byte b i v hi h => rw [h, setBuf_inputs]
  | command i v ho hv hd ha h =>
    obtain ⟨-, -, -, -, hi⟩ := ownRule_sameMarks h
    exact hi

/-- A port operation appends to the refusals on record, so their number tells whether it was refused (log entry 2). -/
theorem hostOp_refusals_length {op : HostOp} {s t : State} (h : hostOp op s = .next t) :
    t.refusals.length = s.refusals.length ↔ t.refusals = s.refusals := by
  cases hostOp_effect h with
  | refusal m h => rw [h]; simp
  | fault n h => rw [h]; exact iff_of_true rfl rfl
  | read v h => rw [h]; exact iff_of_true rfl rfl
  | register n v ha hw hl h => rw [h]; simp
  | byte b i v hi h => rw [h]; simp
  | command i v ho hv hd ha h =>
    obtain ⟨-, -, hr, -, -⟩ := ownRule_sameMarks h
    exact iff_of_true (congrArg List.length hr) hr

/-- A state whose next event is an expansion: what is left of it put first again (R87). -/
theorem eq_continueWith {s : State} {op : HostOp} {more : List HostOp} {rest : List Input}
    (hs : s.inputs = .pseudo (op :: more) :: rest) : s = continueWith (op :: more) { s with inputs := rest } := by
  rw [continueWith, ← hs]

section
variable {op : HostOp} {s t : State} (more : List HostOp) (h : hostOp op s = .next t)
include h

/-- The first statement of an expansion happens, and the rest follows unless it was refused (R87). -/
theorem step_continueWith :
    step (continueWith (op :: more) s) = .next (if t.refusals = s.refusals then continueWith more t else t) := by
  have hs : step (continueWith (op :: more) s) = runPseudo (op :: more) s := rfl
  simp only [hs, runPseudo, h, hostOp_refusals_length h]

theorem step_continueWith_accepted (hr : t.refusals = s.refusals) :
    step (continueWith (op :: more) s) = .next (continueWith more t) := by
  rw [step_continueWith more h, if_pos hr]

theorem step_continueWith_refused (hr : t.refusals ≠ s.refusals) : step (continueWith (op :: more) s) = .next t := by
  rw [step_continueWith more h, if_neg hr]

end

/-- A run of one step more begins with that step. -/
theorem core_run_succ {s t : State} (k : Nat) (h : step s = .next t) :
    Host.Core.run Sys2Proof.core (k + 1) s = Host.Core.run Sys2Proof.core k t := by
  have hc : Sys2Proof.core.step s = .next t := h
  simp only [Host.Core.run, hc]

/-! ### The bytes of LDFRAME and LDPAY -/

/-- The table's `HWB B, i, b_i` for each byte, in order (R87). -/
theorem loadBytes_eq_map_zipIdx (b : Buf) (bs : List Nat) (i : Nat) :
    loadBytes b i bs = (bs.zipIdx i).map fun p => .hwb b p.2 p.1 := by
  induction bs generalizing i with
  | nil => rfl
  | cons v vs ih => rw [loadBytes, ih, List.zipIdx_cons, List.map_cons]

theorem setBuf_setBuf (b : Buf) (m m' : Memory) (s : State) : setBuf b m' (setBuf b m s) = setBuf b m' s := by
  cases b <;> rfl

theorem setBuf_bufOf (b : Buf) (s : State) : setBuf b (bufOf b s) s = s := by cases b <;> rfl

/-- Bytes that fit are loaded in one step a byte (R87, log entry 12). -/
theorem run_loadBytes (b : Buf) (bs : List Nat) (i : Nat) (s : State) (hi : i + bs.length ≤ Config.bufCap)
    (hb : ∀ v ∈ bs, v ≤ 0xFF) :
    Host.Core.run Sys2Proof.core bs.length (continueWith (loadBytes b i bs) s) =
      .next (setBuf b (Memory.writeBytes (bufOf b s) i (bs.map (BitVec.ofNat 8))) s) := by
  induction bs generalizing i s with
  | nil => exact congrArg Host.Outcome.next (setBuf_bufOf b s).symm
  | cons v vs ih =>
    obtain ⟨hv, hvs⟩ := List.forall_mem_cons.mp hb
    rw [List.length_cons] at hi
    have hop : hostOp (.hwb b i v) s = .next (setBuf b (Memory.write (bufOf b s) i (BitVec.ofNat 8 v)) s) :=
      congrArg Host.Outcome.next (bufferWrite_accepted b s (by omega) hv)
    rw [List.length_cons, loadBytes, core_run_succ _ (step_continueWith_accepted _ hop (by simp)),
      ih (i + 1) _ (by omega) hvs, bufOf_setBuf, setBuf_setBuf, List.map_cons, Memory.writeBytes]

/-- A length over `BUF_CAP` is refused for its width or for the capacity (R25). -/
theorem hostOp_length_refused {n : RegName} {v : Nat} (s : State) (hn : n = .opLen ∨ n = .frameLen)
    (hv : Config.bufCap < v) : ∃ m, hostOp (.hwr (regIndex n) v) s = .next (recordRefusal m s) := by
  have ha : regAccess n ≠ .readOnly := by rcases hn with rfl | rfl <;> decide
  by_cases hw : 2 ^ regWidth n ≤ v
  · exact ⟨_, hostOp_hwr_refused s (checkWrite_tooWide _ ha hw)⟩
  · exact ⟨_, hostOp_hwr_refused s (checkWrite_overCapacity ha (Nat.not_le.mp hw) hn hv)⟩

theorem hostOp_frameLen_accepted {v : Nat} (s : State) (hv : v ≤ Config.bufCap) :
    hostOp (.hwr (regIndex .frameLen) v) s = .next (setFrameLen v s) := by
  have hcap := Config.bufCap_le
  exact hostOp_hwr_register s
    (checkWrite_accepted (by decide) (show v < 2 ^ 16 by omega) fun h => absurd h.2 (Nat.not_lt.mpr hv)) (by decide)

/-- Bytes written from index 0 with their number in `FRAME_LEN` are the frame held (R34). -/
theorem holdsFrame_placeFrame_setFrameLen {f : Frame} (s : State) (hf : f.length ≤ Config.bufCap) :
    HoldsFrame (placeFrame f (setFrameLen f.length s)) f :=
  ⟨_, rfl, Config.toNat_length hf, fun _ => Memory.read_writeBytes_of_lt _ _⟩

/-! ### A byte read back -/

theorem bufOf_withInputs (b : Buf) (s : State) (ins : List Input) : bufOf b { s with inputs := ins } = bufOf b s := by
  cases b <;> rfl

/-! ### The obligations -/

/-- Settles O45: the write is accepted, and the read that follows it gives what was stored. -/
theorem hostReadsWhatHostWrote : Obligations.HostReadsWhatHostWrote := by
  constructor
  · intro s n v rest ha hv hl hs
    have hn : n ≠ .cmd := by rintro rfl; cases ha
    have hok : checkWrite Config.bufCap (regIndex n) v = .ok n :=
      checkWrite_accepted (by simp [ha]) hv fun ⟨hlen, hc⟩ => absurd (hl ((isLengthReg_iff n).mpr hlen)) (Nat.not_le.mpr hc)
    refine ⟨_, _, (step_host hs).trans (hostOp_hwr_register _ hok hn),
      step_hrd (regWrite_inputs _ _ _) (portRead_written hn (regRead_regWrite_same _ ha hv)), ?_, rfl⟩
    simp [giveHost]
  · intro s b i v rest hi hv hs
    refine ⟨_, _, step_hwb hs (bufferWrite_accepted b _ hi hv),
      step_hrb (setBuf_inputs _ _ _) (bufferRead_written (v := BitVec.ofNat 8 v) hi ?_), ?_, rfl⟩
    · rw [bufOf_withInputs, bufOf_setBuf, Memory.read_write_same]
    · simp [giveHost, Nat.mod_eq_of_lt (show v < 256 by omega)]

/-- Settles O46: both registers always hold a value, and its code is the one of `engineBits` or `statusBits`. -/
theorem stateAndStatusReadAsTheirCodes : Obligations.StateAndStatusReadAsTheirCodes := by
  refine fun s rest => ⟨fun hs => ?_, fun hs => ?_⟩
  · exact ⟨_, _, step_hrd hs (portRead_written (n := .state) (by decide) rfl), rfl, engineBits_mem s.engine⟩
  · exact ⟨_, _, step_hrd hs (portRead_written (n := .status) (by decide) rfl), rfl, statusBits_mem s.status⟩

/-- Settles O47: `step_continueWith` is one statement of an expansion, and LDFRAME's statements are run in turn
(`run_loadBytes`). -/
theorem pseudoInstructionsExpand : Obligations.PseudoInstructionsExpand := by
  refine ⟨fun bs => ?_, fun bs => ?_, fun d sr e => rfl, fun s op more rest hs => ?_, fun s bs rest hs => ?_⟩
  · rw [stmtInput, loadBytes_eq_map_zipIdx]
    rfl
  · rw [stmtInput, loadBytes_eq_map_zipIdx]
    rfl
  · obtain ⟨t, ht⟩ := hostOp_next op { s with inputs := rest }
    refine ⟨t, (step_host rfl).trans ht, ?_⟩
    rw [eq_continueWith hs]
    refine ⟨step_continueWith_refused more ht, ?_, fun hr hm => ?_⟩
    · rintro hr rfl
      exact step_continueWith_accepted [] ht hr
    · rw [step_continueWith_accepted more ht hr]
      obtain ⟨op', ops, rfl⟩ := List.exists_cons_of_ne_nil hm
      rw [continueWith, hostOp_inputs ht]
  · rw [eq_continueWith hs]
    refine ⟨fun hc => ?_, fun hc hb => ?_⟩
    · obtain ⟨m, hm⟩ := hostOp_length_refused { s with inputs := rest } (.inr rfl) hc
      exact ⟨m, step_continueWith_refused _ hm (by simp)⟩
    · have hlen : (bs.map (BitVec.ofNat 8)).length = bs.length := List.length_map _
      have hfl := hostOp_frameLen_accepted { s with inputs := rest } hc
      rw [core_run_succ _ (step_continueWith_accepted _ hfl (by simp)), run_loadBytes _ _ _ _ (by omega) hb]
      refine ⟨_, rfl, rfl, ?_, rfl, rfl⟩
      have hheld := holdsFrame_placeFrame_setFrameLen { s with inputs := rest } (hlen ▸ hc)
      rwa [hlen] at hheld

end Sys2Proof.Machine
end
